-- ==== Sys2Proof/Word.lean ====
section
/-! DEFINITION. The value types of the block (00_scope R6): everything the spec treats as bits is a bit vector. -/

namespace Sys2Proof

/-- One byte of the boundary. -/
abbrev Byte := BitVec 8

/-- A machine word (R6: 32 bits). -/
abbrev Word := BitVec 32

/-- The accumulator and the completed frame (R6: 64 bits, seen as hi:lo). -/
abbrev DWord := BitVec 64

end Sys2Proof
end

