-- ==== Sys2Proof/Syntax.lean ====
section
/-! DEFINITION. The steps of the block as syntax: one constructor per row of spec/opcode_table.json (30_encoding R97, R98),
and the records an agent hands to the block (R90, R98). -/

namespace Sys2Proof

/-- A caller agent's number c (R55). -/
abbrev CallerId := Nat

/-- The commands and events. A command's first argument is the caller that issues it (log entry 2). -/
inductive Instr where
  /-- RX_OPEN, R201. -/
  | rxOpen (c : CallerId)
  /-- RX_CLOSE, R202. -/
  | rxClose (c : CallerId)
  /-- RX_READ[.NB] size, R130. -/
  | rxRead (c : CallerId) (nb : Bool) (size : BitVec 4)
  /-- RX_POLL, R132. -/
  | rxPoll (c : CallerId)
  /-- RX_STATUS, R133. -/
  | rxStatus (c : CallerId)
  /-- RX_STRIP lo, hi, R134: a = frame_lo, b = frame_hi (R95). -/
  | rxStrip (c : CallerId) (a b : Word)
  /-- RX_SET_PW us, R208. -/
  | rxSetPw (c : CallerId) (a : Word)
  /-- RX_SET_PI us, R209. -/
  | rxSetPi (c : CallerId) (a : Word)
  /-- RX_SET_LEN n, R210. -/
  | rxSetLen (c : CallerId) (a : Word)
  /-- TX_OPEN, R203. -/
  | txOpen (c : CallerId)
  /-- TX_CLOSE, R204. -/
  | txClose (c : CallerId)
  /-- TX_WRITE[.NB] V, R171. -/
  | txWrite (c : CallerId) (nb : Bool) (v : Word)
  /-- TX_WRITE_BUF[.NB] size, b0, ..., R172. -/
  | txWriteBuf (c : CallerId) (nb : Bool) (size : BitVec 4) (buf : List Byte)
  /-- TX_SET_PW us, R211. -/
  | txSetPw (c : CallerId) (a : Word)
  /-- TX_SET_PI us, R212. -/
  | txSetPi (c : CallerId) (a : Word)
  /-- TX_SET_LEN n, R213. -/
  | txSetLen (c : CallerId) (a : Word)
  /-- EV_EDGE0, falling edge on DATA0, R121. -/
  | evEdge0
  /-- EV_EDGE1, falling edge on DATA1, R121. -/
  | evEdge1
  /-- EV_RX_TIMER, the deadline fires, R128. -/
  | evRxTimer
  /-- EV_TX_TIMER, the pulse timer fires, R178. -/
  | evTxTimer
  /-- EV_CANCEL c, R205. -/
  | evCancel (c : CallerId)
  /-- EV_WAKE_READ c, R131. -/
  | evWakeRead (c : CallerId)
  /-- EV_WAKE_WRITE c, R183. -/
  | evWakeWrite (c : CallerId)
  /-- EV_RESET, R260. -/
  | evReset
  /-- EV_TIME t, R14. -/
  | evTime (t : Nat)
  deriving DecidableEq, Repr

/-- The command record of R90: the command word, the two operand words and the byte buffer of a write. -/
structure CmdRecord where
  cmd : Word
  a   : Word
  b   : Word
  buf : List Byte
  deriving DecidableEq, Repr

/-- What one agent hands to the block: a command record with the caller that issues it, or an event code with its
argument (the caller of 0xA0..0xA2, the time of 0xFF; ignored by the other codes) (R90, R98; log entries 2 and 3). -/
inductive Input where
  | command (c : CallerId) (r : CmdRecord)
  | event (code : Byte) (arg : Nat)
  deriving DecidableEq, Repr

end Sys2Proof
end

