-- ==== Sys2Proof/WellFormed.lean ====
section
/-! DEFINITION. Which instructions an input can spell. Every field but one holds only encodable values by its type;
the exception is the buffer of TX_WRITE_BUF, which carries at most the SIZE bytes its command word declares (R93). -/

namespace Sys2Proof

/-- The check of one instruction. -/
def Instr.wellFormed : Instr → Bool
  | .rxOpen _ => true
  | .rxClose _ => true
  | .rxRead _ _ _ => true
  | .rxPoll _ => true
  | .rxStatus _ => true
  | .rxStrip _ _ _ => true
  | .rxSetPw _ _ => true
  | .rxSetPi _ _ => true
  | .rxSetLen _ _ => true
  | .txOpen _ => true
  | .txClose _ => true
  | .txWrite _ _ _ => true
  | .txWriteBuf _ _ size buf => decide (buf.length ≤ size.toNat)
  | .txSetPw _ _ => true
  | .txSetPi _ _ => true
  | .txSetLen _ _ => true
  | .evEdge0 => true
  | .evEdge1 => true
  | .evRxTimer => true
  | .evTxTimer => true
  | .evCancel _ => true
  | .evWakeRead _ => true
  | .evWakeWrite _ => true
  | .evReset => true
  | .evTime _ => true

/-- A well-formed instruction: one that decode can answer and encode can spell. -/
abbrev WellFormed (i : Instr) : Prop := i.wellFormed = true

end Sys2Proof
end

