-- ==== Sys2Proof/Decode.lean ====
section
/-! DEFINITION. Decoding an input (30_encoding R90 to R99), total on every input and rejecting by name; after it the
encoder, and the opcode table as rows of match and mask. -/

namespace Sys2Proof

/-- Why an input is no instruction. The first four make a command illegal (R99: INVALID_ARGUMENT); the last is an event
code outside the list of R98. -/
inductive DecodeError where
  /-- OP is not in the table of R97 (R91, R99). -/
  | unlistedOp
  /-- CMD[15:9] or CMD[31:20] is not 0 (R94). -/
  | reservedBits
  /-- NB = 1 in a command other than RX_READ, TX_WRITE, TX_WRITE_BUF (R94). -/
  | nbNotAllowed
  /-- SIZE ≠ 0 in a command other than RX_READ, TX_WRITE_BUF (R94). -/
  | sizeNotAllowed
  /-- The event code is not in the table of R98. -/
  | unlistedEvent
  deriving DecidableEq, Repr

/-- Bits hi down to lo of a word (R9). -/
def field (hi lo : Nat) (w : Word) : BitVec (hi - lo + 1) := w.extractLsb' lo (hi - lo + 1)

/-- OP, CMD[7:0] (R90). -/
def opOf (cmd : Word) : Byte := field 7 0 cmd

/-- NB, CMD[8] (R90). -/
def nbOf (cmd : Word) : Bool := cmd.getLsbD 8

/-- SIZE, CMD[19:16] (R90). -/
def sizeOf4 (cmd : Word) : BitVec 4 := field 19 16 cmd

/-- The reserved fields CMD[15:9] and CMD[31:20] are 0 (R94). -/
def reservedZero (cmd : Word) : Bool := field 15 9 cmd = 0 && field 31 20 cmd = 0

/-- A command that uses neither NB nor SIZE (R94). -/
def plain (cmd : Word) (i : Instr) : Except DecodeError Instr :=
  if nbOf cmd then .error .nbNotAllowed
  else if sizeOf4 cmd = 0 then .ok i
  else .error .sizeNotAllowed

/-- A command that uses NB but not SIZE: TX_WRITE (R94). -/
def withNb (cmd : Word) (i : Bool → Instr) : Except DecodeError Instr :=
  if sizeOf4 cmd = 0 then .ok (i (nbOf cmd)) else .error .sizeNotAllowed

/-- A host command (R97); operands a command does not use are ignored (R95), and only the SIZE bytes the command
declares are taken from the buffer (R72). -/
def decodeCommand (c : CallerId) (r : CmdRecord) : Except DecodeError Instr :=
  if reservedZero r.cmd then
    let op := opOf r.cmd
    if op = 0x01 then plain r.cmd (.rxOpen c)
    else if op = 0x02 then plain r.cmd (.rxClose c)
    else if op = 0x03 then .ok (.rxRead c (nbOf r.cmd) (sizeOf4 r.cmd))
    else if op = 0x04 then plain r.cmd (.rxPoll c)
    else if op = 0x05 then plain r.cmd (.rxStatus c)
    else if op = 0x06 then plain r.cmd (.rxStrip c r.a r.b)
    else if op = 0x08 then plain r.cmd (.rxSetPw c r.a)
    else if op = 0x09 then plain r.cmd (.rxSetPi c r.a)
    else if op = 0x0A then plain r.cmd (.rxSetLen c r.a)
    else if op = 0x11 then plain r.cmd (.txOpen c)
    else if op = 0x12 then plain r.cmd (.txClose c)
    else if op = 0x13 then withNb r.cmd fun nb => .txWrite c nb r.a
    else if op = 0x14 then
      .ok (.txWriteBuf c (nbOf r.cmd) (sizeOf4 r.cmd) (r.buf.take (sizeOf4 r.cmd).toNat))
    else if op = 0x18 then plain r.cmd (.txSetPw c r.a)
    else if op = 0x19 then plain r.cmd (.txSetPi c r.a)
    else if op = 0x1A then plain r.cmd (.txSetLen c r.a)
    else .error .unlistedOp
  else .error .reservedBits

/-- An event (R98). -/
def decodeEvent (code : Byte) (arg : Nat) : Except DecodeError Instr :=
  if code = 0x80 then .ok .evEdge0
  else if code = 0x81 then .ok .evEdge1
  else if code = 0x88 then .ok .evRxTimer
  else if code = 0x90 then .ok .evTxTimer
  else if code = 0xA0 then .ok (.evCancel arg)
  else if code = 0xA1 then .ok (.evWakeRead arg)
  else if code = 0xA2 then .ok (.evWakeWrite arg)
  else if code = 0xF0 then .ok .evReset
  else if code = 0xFF then .ok (.evTime arg)
  else .error .unlistedEvent

/-- The decoder. Command words and event codes are separate alphabets: a command whose OP is an event code is
illegal (R91, R99). -/
def decode : Input → Except DecodeError Instr
  | .command c r => decodeCommand c r
  | .event code arg => decodeEvent code arg

/-- The command word with its reserved bits 0 (R90): from bit 31 down, 0, SIZE, 0, NB, OP. -/
def cmdWord (op : Byte) (nb : Bool) (size : BitVec 4) : Word :=
  0#12 ++ size ++ 0#7 ++ BitVec.ofBool nb ++ op

/-- A command with its operands in A and B and no buffer. -/
def cmdInput (c : CallerId) (op : Byte) (nb : Bool) (size : BitVec 4) (a b : Word) : Input :=
  .command c ⟨cmdWord op nb size, a, b, []⟩

/-- The encoder: the input that spells an instruction (R97, R98), operands it does not use 0. -/
def encode : Instr → Input
  | .rxOpen c => cmdInput c 0x01 false 0 0 0
  | .rxClose c => cmdInput c 0x02 false 0 0 0
  | .rxRead c nb size => cmdInput c 0x03 nb size 0 0
  | .rxPoll c => cmdInput c 0x04 false 0 0 0
  | .rxStatus c => cmdInput c 0x05 false 0 0 0
  | .rxStrip c a b => cmdInput c 0x06 false 0 a b
  | .rxSetPw c a => cmdInput c 0x08 false 0 a 0
  | .rxSetPi c a => cmdInput c 0x09 false 0 a 0
  | .rxSetLen c a => cmdInput c 0x0A false 0 a 0
  | .txOpen c => cmdInput c 0x11 false 0 0 0
  | .txClose c => cmdInput c 0x12 false 0 0 0
  | .txWrite c nb v => cmdInput c 0x13 nb 0 v 0
  | .txWriteBuf c nb size buf => .command c ⟨cmdWord 0x14 nb size, 0, 0, buf⟩
  | .txSetPw c a => cmdInput c 0x18 false 0 a 0
  | .txSetPi c a => cmdInput c 0x19 false 0 a 0
  | .txSetLen c a => cmdInput c 0x1A false 0 a 0
  | .evEdge0 => .event 0x80 0
  | .evEdge1 => .event 0x81 0
  | .evRxTimer => .event 0x88 0
  | .evTxTimer => .event 0x90 0
  | .evCancel c => .event 0xA0 c
  | .evWakeRead c => .event 0xA1 c
  | .evWakeWrite c => .event 0xA2 c
  | .evReset => .event 0xF0 0
  | .evTime t => .event 0xFF t

/-- The match and mask columns of opcode_table.json for an instruction's row, events as numbers of 8 bits. -/
def rowOf : Instr → Word × Word
  | .rxOpen _ => (0x00000001, 0xFFFFFFFF)
  | .rxClose _ => (0x00000002, 0xFFFFFFFF)
  | .rxRead _ _ _ => (0x00000003, 0xFFF0FEFF)
  | .rxPoll _ => (0x00000004, 0xFFFFFFFF)
  | .rxStatus _ => (0x00000005, 0xFFFFFFFF)
  | .rxStrip _ _ _ => (0x00000006, 0xFFFFFFFF)
  | .rxSetPw _ _ => (0x00000008, 0xFFFFFFFF)
  | .rxSetPi _ _ => (0x00000009, 0xFFFFFFFF)
  | .rxSetLen _ _ => (0x0000000A, 0xFFFFFFFF)
  | .txOpen _ => (0x00000011, 0xFFFFFFFF)
  | .txClose _ => (0x00000012, 0xFFFFFFFF)
  | .txWrite _ _ _ => (0x00000013, 0xFFFFFEFF)
  | .txWriteBuf _ _ _ _ => (0x00000014, 0xFFF0FEFF)
  | .txSetPw _ _ => (0x00000018, 0xFFFFFFFF)
  | .txSetPi _ _ => (0x00000019, 0xFFFFFFFF)
  | .txSetLen _ _ => (0x0000001A, 0xFFFFFFFF)
  | .evEdge0 => (0x80, 0xFF)
  | .evEdge1 => (0x81, 0xFF)
  | .evRxTimer => (0x88, 0xFF)
  | .evTxTimer => (0x90, 0xFF)
  | .evCancel _ => (0xA0, 0xFF)
  | .evWakeRead _ => (0xA1, 0xFF)
  | .evWakeWrite _ => (0xA2, 0xFF)
  | .evReset => (0xF0, 0xFF)
  | .evTime _ => (0xFF, 0xFF)

/-- The command rows of opcode_table.json, (match, mask), in the table's order. -/
def commandRows : List (Word × Word) :=
  [(0x00000001, 0xFFFFFFFF), (0x00000002, 0xFFFFFFFF), (0x00000003, 0xFFF0FEFF), (0x00000004, 0xFFFFFFFF),
   (0x00000005, 0xFFFFFFFF), (0x00000006, 0xFFFFFFFF), (0x00000008, 0xFFFFFFFF), (0x00000009, 0xFFFFFFFF)]
  ++ [(0x0000000A, 0xFFFFFFFF), (0x00000011, 0xFFFFFFFF), (0x00000012, 0xFFFFFFFF), (0x00000013, 0xFFFFFEFF),
   (0x00000014, 0xFFF0FEFF), (0x00000018, 0xFFFFFFFF), (0x00000019, 0xFFFFFFFF), (0x0000001A, 0xFFFFFFFF)]

/-- The event codes of opcode_table.json, in the table's order. -/
def eventCodes : List Byte := [0x80, 0x81, 0x88, 0x90, 0xA0, 0xA1, 0xA2, 0xF0, 0xFF]

/-- A command word that matches a row of the table: a legal command (R97, R99). -/
def legalCommand (cmd : Word) : Bool := commandRows.any fun row => cmd &&& row.2 = row.1

/-- The number of the input an instruction is spelled with: its command word or event code. -/
def Input.number : Input → Word
  | .command _ r => r.cmd
  | .event code _ => code.setWidth 32

/-- The input a word of the opcode table stands for: a row of at most 8 bits is an event code, a wider row a command
word; what the row gives no bits is 0: caller 0, A = B = 0, argument 0, and a buffer of the longest SIZE, 15 bytes of
0 (log entry 16). -/
def tableInput (nbits w : Nat) : Input :=
  if nbits ≤ 8 then .event (BitVec.ofNat 8 w) 0
  else .command 0 ⟨BitVec.ofNat 32 w, 0, 0, List.replicate 15 0⟩

/-- The instruction the decoder reads from a word of the opcode table. -/
def decodeTableWord (nbits w : Nat) : Option Instr := (decode (tableInput nbits w)).toOption

end Sys2Proof
end

