-- ==== Sys2Proof/Config.lean ====
section
/-! DEFINITION. The implementation parameters of R8, and the free values. A constant with no body is open: no proof can see it. -/

namespace Sys2Proof

/-- The two single-shot timers (R240). -/
inductive TimerId where
  | rx
  | tx
  deriving DecidableEq, Repr

namespace Config

/-- CNT_SAT: where the received-bit counter saturates (R8, D10). -/
def cntSat : Int := 127

/-- CFG_MAX: the largest legal pulse width or interval in µs (R8, D14). -/
def cfgMax : Nat := 2 ^ 24 - 1

/-- T_LAT of the instance State.reset describes: the default the spec gives (R8, D7). Every statement over all states
holds for every T_LAT, because the step reads it from State.par (log entry 5). -/
def tLat : Nat := 0

/-- WR_MARGIN of the instance State.reset describes: OPEN, no source gives it (R8, D18; log entry 6). -/
opaque wrMargin : Nat

/-- N_CALLERS − 1 of the instance State.reset describes: the spec says only that N_CALLERS is at least 1
(R8, D31; log entry 7). -/
opaque moreCallers : Nat

/-- FREE VALUE. The latencies a timer's armings draw (R240: draw lat from 0..T_LAT): the n-th arming of timer T draws
freeLatency T n, brought into 0..T_LAT by State.latency (log entry 5). -/
opaque freeLatency : TimerId → Nat → Nat

end Config

end Sys2Proof
end

