-- ==== Sys2Proof/Machine/State.lean ====
section
/-! DEFINITION. The state of the block (10_state R30 to R58), the reasons a step can stop, and the initial state. -/

namespace Sys2Proof.Machine

/-- The two legal frame lengths (R7, R35). -/
inductive FrameLen where
  | l26
  | l34
  deriving DecidableEq, Repr

/-- A single-shot timer (R240): due is meaningful only while armed. -/
structure Timer where
  armed : Bool
  due   : Nat
  deriving DecidableEq, Repr

/-- The decoder record RX (R31 to R42). -/
structure Rx where
  /-- RX.open, the session and the edge-delivery enable (R31). -/
  opened : Bool
  /-- RX.len (R32). -/
  len    : FrameLen
  /-- RX.pw in µs (R33). -/
  pw     : Word
  /-- RX.pi in µs (R34). -/
  pi     : Word
  /-- RX.count: −1 is IDLE, n ≥ 0 says n + 1 bits are in (R36). -/
  count  : Int
  /-- RX.sr, the accumulator (R38). -/
  sr     : DWord
  /-- RX.frame, the completed frame, 0 for none (R39). -/
  frame  : DWord
  /-- RX.err (R40). -/
  err    : Bool
  /-- RX.last, the time of the last accepted edge (R41). -/
  last   : Nat
  /-- RX.timer, the deadline (R42). -/
  timer  : Timer
  deriving DecidableEq, Repr

/-- TX.phase (R48). -/
inductive Phase where
  | assertPulse
  | gap
  deriving DecidableEq, Repr

/-- The encoder record TX (R45 to R52). -/
structure Tx where
  /-- TX.open (R45). -/
  opened : Bool
  /-- TX.len (R46). -/
  len    : FrameLen
  /-- TX.pw in µs (R46). -/
  pw     : Word
  /-- TX.pi in µs (R46). -/
  pi     : Word
  /-- TX.w0, sent first (R47). -/
  w0     : Word
  /-- TX.w1, sent second (R47). -/
  w1     : Word
  /-- TX.phase (R48). -/
  phase  : Phase
  /-- TX.pos, the next bit to emit (R48). -/
  pos    : Nat
  /-- TX.llen, the length latched at the start (R49). -/
  llen   : FrameLen
  /-- TX.active (R50). -/
  active : Bool
  /-- TX.done (R51). -/
  done   : Bool
  /-- TX.timer (R52). -/
  timer  : Timer
  deriving DecidableEq, Repr

/-- The output lines (R53): true is 1, high; false is 0, pulled low. -/
structure Lines where
  d0 : Bool
  d1 : Bool
  deriving DecidableEq, Repr

/-- The status names of R230. -/
inductive Status where
  | ok
  | busy
  | wouldBlock
  | interrupted
  | timeout
  | invalidArgument
  deriving DecidableEq, Repr

/-- The result record of R96, with the bytes MemWrite hands back (R72). -/
structure Result where
  status : Status
  r0     : Word
  r1     : Word
  nbytes : Nat
  bytes  : List Byte
  deriving DecidableEq, Repr

/-- A caller's position in a blocking operation (R55); a waiting writer carries its deadline and its byte count
(R175, R183). -/
inductive CallerState where
  | ready
  | waitingRead
  | waitingWrite (wrDue n : Nat)
  deriving DecidableEq, Repr

/-- CALLER[c] (R55), with the result record last returned to c, none while its command has not ended (log entry 4). -/
structure Caller where
  state  : CallerState
  result : Option Result
  deriving DecidableEq, Repr

/-- The parameters of this instance that R8 leaves to it; no step writes them (log entries 5 and 6). -/
structure Params where
  /-- T_LAT. -/
  tLat     : Nat
  /-- WR_MARGIN. -/
  wrMargin : Nat
  deriving DecidableEq, Repr

/-- The whole state. The first five fields are the spec's (R30); the others are the model's own, named in
INVENTORY.md. -/
structure State where
  rx      : Rx
  tx      : Tx
  lines   : Lines
  callers : List Caller
  now     : Nat
  par     : Params
  /-- How many latencies the RX timer has drawn (log entry 5). -/
  rxDraws : Nat
  /-- How many latencies the TX timer has drawn (log entry 5). -/
  txDraws : Nat
  /-- The steps the agents take next, the head first (log entry 1). -/
  inputs  : List Input
  deriving DecidableEq, Repr

/-- There is no fault: "No condition stops the block" (R238), and the block has no trap (R244). Every error of the
spec is a status in a result record. -/
inductive Fault where
  deriving DecidableEq, Repr

/-- Why a step is not in the model. Each is safe: the model stops where no rule gives a step. -/
inductive Refusal where
  /-- Raised by exec for an instruction that has no meaning yet. Safe. -/
  | notModelled (mnemonic : String)
  /-- Raised by step when no agent takes a step: the block moves only when commands and events arrive (R261). Safe. -/
  | noInput
  /-- Raised by the events whose Enabled condition does not hold: EV_RX_TIMER (R128), EV_TX_TIMER (R178),
  EV_CANCEL (R205), EV_WAKE_READ (R131), EV_WAKE_WRITE (R183), EV_TIME (R14, R15). Safe. -/
  | notEnabled
  /-- Raised by RX_READ, RX_POLL, RX_STATUS, TX_WRITE, TX_WRITE_BUF without an open session: "The model refuses it"
  (R206). Safe. -/
  | noSession
  /-- Raised by every command of a caller that is waiting: it "takes no step of its own" (R16). Safe. -/
  | callerWaiting
  /-- Raised by every command and caller event whose caller is not one of 0..N_CALLERS−1 (R55). Safe. -/
  | noSuchCaller
  /-- Raised by TX_WRITE_BUF when the host supplies fewer bytes than SIZE: "a refusal of the model" (R72). Safe. -/
  | shortBuffer
  /-- Raised by step for an event code that R98 does not list. Safe. -/
  | unlistedEvent
  deriving DecidableEq, Repr

/-- RX after reset (R58). -/
def Rx.reset : Rx :=
  { opened := false, len := .l26, pw := 100, pi := 1000, count := -1, sr := 0, frame := 0, err := false, last := 0,
    timer := ⟨false, 0⟩ }

/-- TX after reset (R58). -/
def Tx.reset : Tx :=
  { opened := false, len := .l26, pw := 100, pi := 1000, w0 := 0, w1 := 0, phase := .assertPulse, pos := 0,
    llen := .l26, active := false, done := false, timer := ⟨false, 0⟩ }

/-- LINES after reset (R58). -/
def Lines.reset : Lines := ⟨true, true⟩

/-- A caller that has issued nothing yet (R58). -/
def Caller.reset : Caller := ⟨.ready, none⟩

/-- The initial state (R261, R58): now = 0 and no step taken. -/
def State.reset : State :=
  { rx := Rx.reset, tx := Tx.reset, lines := Lines.reset,
    callers := Caller.reset :: List.replicate Config.moreCallers Caller.reset, now := 0,
    par := ⟨Config.tLat, Config.wrMargin⟩, rxDraws := 0, txDraws := 0, inputs := [] }

end Sys2Proof.Machine
end

