-- ==== Sys2Proof/Machine/Operands.lean ====
section
/-! DEFINITION. Every operand form: the byte boundary (20_memory R72 to R75), the operand words (R95), the stripped
value (R109, R134), the legal settings (R35) and the numbers behind the names (R7, R230). -/

namespace Sys2Proof.Machine

/-- The number of bits of a frame length (R7). -/
def FrameLen.bits : FrameLen → Nat
  | .l26 => 26
  | .l34 => 34

/-- A as a frame length: 26 or 34, nothing else (R35, R210, R213). -/
def lenOf (a : Word) : Option FrameLen :=
  if a = 26 then some .l26 else if a = 34 then some .l34 else none

/-- A as a pulse width or interval: 1..CFG_MAX (R35, R207). -/
def legalTime (a : Word) : Bool := decide (1 ≤ a.toNat) && decide (a.toNat ≤ Config.cfgMax)

/-- The numeric status code of R230. -/
def Status.code : Status → Byte
  | .ok => 0
  | .busy => 1
  | .wouldBlock => 2
  | .interrupted => 3
  | .timeout => 4
  | .invalidArgument => 5

/-- The upper word of a hi:lo pair (R9). -/
def hiWord (v : DWord) : Word := v.extractLsb' 32 32

/-- The lower word of a hi:lo pair (R9). -/
def loWord (v : DWord) : Word := v.extractLsb' 0 32

/-- The n little-endian bytes of a value (R72, R73): byte k is bits 8k+7..8k. -/
def leBytes (n : Nat) (v : DWord) : List Byte := (List.range n).map fun k => v.extractLsb' (8 * k) 8

/-- MemWrite(buf, 8, F): the 8 bytes RX_READ hands back (R72, R74). -/
def readBytes (F : DWord) : List Byte := leBytes 8 F

/-- The result record of a read that hands back F (R130, R131). -/
def readResult (F : DWord) : Result := ⟨.ok, loWord F, hiWord F, 8, readBytes F⟩

/-- The result record of a query (R132, R133): R0 = v. -/
def valueResult (v : Word) : Result := ⟨.ok, v, 0, 0, []⟩

/-- The result record of a completed write of n bytes (R183, D41). -/
def writeResult (n : Nat) : Result := ⟨.ok, 0, 0, n, []⟩

/-- MemRead(buf, n): the n bytes the host supplied, none where it supplied fewer (R72). -/
def memRead (buf : List Byte) (n : Nat) : Option (List Byte) :=
  if n ≤ buf.length then some (buf.take n) else none

/-- Byte k of a buffer, 0 past its end. -/
def byteAt (buf : List Byte) (k : Nat) : Word := ((buf[k]?).getD 0).setWidth 32

/-- V = buf[0] | buf[1]<<8 | buf[2]<<16 | buf[3]<<24; bytes 4..7 are ignored (R75). -/
def payloadValue (buf : List Byte) : Word :=
  byteAt buf 0 ||| (byteAt buf 1 <<< 8) ||| (byteAt buf 2 <<< 16) ||| (byteAt buf 3 <<< 24)

/-- SIZE ∈ {4, 8} (R77, R172). -/
def legalWriteSize (size : BitVec 4) : Bool := size = 4 || size = 8

/-- SIZE ≥ 8 (R77, R130). -/
def legalReadSize (size : BitVec 4) : Bool := decide (8 ≤ size.toNat)

/-- The parity-stripped value (R109, R134): A[24:1] for length 26, B[0]:A[31:1] for length 34. -/
def stripped (len : FrameLen) (a b : Word) : Word :=
  match len with
  | .l26 => (a.extractLsb' 1 24).setWidth 32
  | .l34 => ((b &&& 1) <<< 31) ||| (a >>> 1)

end Sys2Proof.Machine
end

