-- ==== Sys2Proof/Machine/Ops.lean ====
section
/-! DEFINITION. The operations every meaning is made of: returning a status, raising an error (what the block has in
place of taking an exception, R244), waiting, releasing waiters, the single-shot timer and the lines. -/

namespace Sys2Proof.Machine

/-- The outcome of a step. -/
abbrev StepOutcome := Host.Outcome State Fault Refusal

/-! ## Callers -/

/-- Caller c exists and is Ready (R55). -/
def State.isReady (s : State) (c : CallerId) : Bool :=
  match s.callers[c]? with
  | some x => decide (x.state = .ready)
  | none => false

/-- Caller c gets the result record r and is Ready (R96). -/
def State.finish (c : CallerId) (r : Result) (s : State) : State :=
  { s with callers := s.callers.set c ⟨.ready, some r⟩ }

/-- Caller c waits in w; its result comes later (R16, R96). -/
def State.suspend (c : CallerId) (w : CallerState) (s : State) : State :=
  { s with callers := s.callers.set c ⟨w, none⟩ }

/-- A result record with nothing but a status (R96: the rest is 0). -/
def Result.bare (st : Status) : Result := ⟨st, 0, 0, 0, []⟩

/-- One caller released with INTERRUPTED (R233) if its position is one of those p names. -/
def Caller.interruptIf (p : CallerState → Bool) (x : Caller) : Caller :=
  if p x.state then ⟨.ready, some (.bare .interrupted)⟩ else x

/-- Every caller whose position p names gets INTERRUPTED and is Ready (R201, R203, R260). -/
def State.interrupt (p : CallerState → Bool) (s : State) : State :=
  { s with callers := s.callers.map (Caller.interruptIf p) }

/-- Waiting(READ). -/
def CallerState.isReader : CallerState → Bool
  | .waitingRead => true
  | _ => false

/-- Waiting(WRITE, _). -/
def CallerState.isWriter : CallerState → Bool
  | .waitingWrite _ _ => true
  | _ => false

/-- Waiting(_). -/
def CallerState.isWaiting (w : CallerState) : Bool := w.isReader || w.isWriter

/-! ## Issuing a command and ending it -/

/-- A command of caller c: only an existing Ready caller takes a step of its own (R16, R55). -/
def issue (c : CallerId) (s : State) (o : StepOutcome) : StepOutcome :=
  match s.callers[c]? with
  | none => .refused .noSuchCaller
  | some x => if x.state = .ready then o else .refused .callerWaiting

/-- The session requirement of R206. -/
def requireSession (isOpen : Bool) (o : StepOutcome) : StepOutcome :=
  if isOpen then o else .refused .noSession

/-- return r: the command of c ends with the result record r (R10). -/
def reply (c : CallerId) (r : Result) (s : State) : StepOutcome := .next (s.finish c r)

/-- return OK with nothing else (R230). -/
def replyOk (c : CallerId) (s : State) : StepOutcome := reply c (.bare .ok) s

/-- raise S: a return of status st that changes no state of the block (R10, R244). Every error of every command goes
through here. -/
def raise (c : CallerId) (st : Status) (s : State) : StepOutcome := reply c (.bare st) s

/-- An input that decodes to no instruction: an illegal command returns INVALID_ARGUMENT to its caller and changes no
state (R99); an unlisted event code is no step (R98). -/
def rejectInput (x : Input) (s : State) : StepOutcome :=
  match x with
  | .command c _ => issue c s (raise c .invalidArgument s)
  | .event _ _ => .refused .unlistedEvent

/-! ## The timer primitive (R240) -/

/-- draw lat ∈ 0..T_LAT for the next arming of timer T: a free value (log entry 5). -/
def State.latency (T : TimerId) (s : State) : Nat :=
  if s.par.tLat = 0 then 0
  else Config.freeLatency T (match T with | .rx => s.rxDraws | .tx => s.txDraws) % (s.par.tLat + 1)

/-- arm(RX.timer, d). -/
def State.armRx (d : Nat) (s : State) : State :=
  { s with rx := { s.rx with timer := ⟨true, s.now + d + s.latency .rx⟩ }, rxDraws := s.rxDraws + 1 }

/-- arm(TX.timer, d). -/
def State.armTx (d : Nat) (s : State) : State :=
  { s with tx := { s.tx with timer := ⟨true, s.now + d + s.latency .tx⟩ }, txDraws := s.txDraws + 1 }

/-- T.armed <- 0; due stays (log entry 12). -/
def Timer.cancel (T : Timer) : Timer := { T with armed := false }

/-- The firing condition: armed and now = due (R128, R178). -/
def Timer.firesAt (T : Timer) (now : Nat) : Bool := T.armed && now == T.due

/-- A time step to t does not pass the timer's due time (R15). -/
def Timer.allows (T : Timer) (t : Nat) : Bool := !T.armed || decide (t ≤ T.due)

/-! ## The lines (R10, R53) -/

/-- drive(D0, a); drive(D1, b). -/
def State.drive (a b : Bool) (s : State) : State := { s with lines := ⟨a, b⟩ }

/-- Both lines released, high (R53). -/
def State.release (s : State) : State := s.drive true true

end Sys2Proof.Machine
end

