-- ==== Sys2Proof/Machine/Flags.lean ====
section
/-! DEFINITION. Every condition and threshold the rules test: unread frame and error (R44, R130), mid-frame (R37), the
edge window (R123, R124), the completion tests (R128, R179), the wake predicates (R131, R183) and urgency (R15). -/

namespace Sys2Proof.Machine

/-- IDLE (R36). -/
def idleCount : Int := -1

/-- A completed, unread frame is held (R44). -/
def Rx.unread (r : Rx) : Bool := r.frame ≠ 0

/-- RX.frame ≠ 0 or RX.err = 1: what a waiting reader waits for (R130, R131). -/
def Rx.readable (r : Rx) : Bool := r.unread || r.err

/-- The receive state Accumulating, as a BUSY condition (R37, R207). -/
def Rx.midFrame (r : Rx) : Bool := r.count ≠ idleCount

/-- RX.pw + RX.pi (R126). -/
def Rx.period (r : Rx) : Nat := r.pw.toNat + r.pi.toNat

/-- (RX.pw + RX.pi) · RX.len, the deadline's delay (R126). -/
def Rx.deadline (r : Rx) : Nat := r.period * r.len.bits

/-- RX.pw + 3·(RX.pw + RX.pi), exact (R124, D35). -/
def Rx.longGap (r : Rx) : Nat := r.pw.toNat + 3 * r.period

/-- now − RX.last (R121). -/
def Rx.since (r : Rx) (now : Nat) : Nat := now - r.last

/-- An edge too soon after the last accepted one (R123). -/
def Rx.isGlitch (r : Rx) (now : Nat) : Bool := decide (r.since now < r.pw.toNat)

/-- An edge too late after the last accepted one (R124). -/
def Rx.isLongGap (r : Rx) (now : Nat) : Bool := decide (r.longGap < r.since now)

/-- Exactly RX.len bits were shifted in (R128). -/
def Rx.complete (r : Rx) : Bool := r.count = (r.len.bits : Int) - 1

/-- TX.pw + TX.pi (R175). -/
def Tx.period (t : Tx) : Nat := t.pw.toNat + t.pi.toNat

/-- Every bit has been emitted (R178, R179). -/
def Tx.finished (t : Tx) : Bool := t.pos = t.llen.bits

/-- TX.done = 1 or now ≥ wr_due (R183). -/
def State.writeOver (s : State) (wrDue : Nat) : Bool := s.tx.done || decide (wrDue ≤ s.now)

/-- The deadline of a waiting writer does not lie before t (R15). -/
def Caller.allows (t : Nat) (x : Caller) : Bool :=
  match x.state with
  | .waitingWrite wrDue _ => decide (t ≤ wrDue)
  | _ => true

/-- A time step to t is allowed: t > now, and no armed timer and no waiting writer is due before t (R14, R15). -/
def State.timeAllowed (s : State) (t : Nat) : Bool :=
  decide (s.now < t) && s.rx.timer.allows t && s.tx.timer.allows t && s.callers.all (Caller.allows t)

end Sys2Proof.Machine
end

