-- ==== Sys2Proof/Machine/Decoder.lean ====
section
/-! DEFINITION. The input decoder's handlers and its consumer operation (41_input_decoder R121 to R131). -/

namespace Sys2Proof.Machine

/-- Shift-in (R127): the accumulator moves left, the line's bit enters at bit 0, the count saturates at CNT_SAT. -/
def Rx.shiftIn (l : Bool) (r : Rx) : Rx :=
  { r with sr := (r.sr <<< 1) ||| (BitVec.ofBool l).setWidth 64, count := min (r.count + 1) Config.cntSat }

/-- First edge of a frame (R122, R126, R127): accepted untimed, it arms the deadline and is shifted in. -/
def firstEdge (l : Bool) (s : State) : State :=
  let s := { s with rx := { s.rx with last := s.now } }
  let s := s.armRx s.rx.deadline
  { s with rx := s.rx.shiftIn l }

/-- Accepted later edge (R125, R127). -/
def laterEdge (l : Bool) (s : State) : State :=
  { s with rx := { s.rx with last := s.now }.shiftIn l }

/-- Long-gap reset (R124): the timer is cancelled, the decoder is IDLE, the edge's bit is discarded. -/
def longGapReset (s : State) : State :=
  { s with rx := { s.rx with timer := s.rx.timer.cancel, count := idleCount, sr := 0 } }

/-- An edge event on line l (R121). -/
def edge (l : Bool) (s : State) : State :=
  if !s.rx.opened then s
  else if !s.rx.midFrame then firstEdge l s
  else if s.rx.isGlitch s.now then s
  else if s.rx.isLongGap s.now then longGapReset s
  else laterEdge l s

/-- The deadline fires (R128): a frame of exactly RX.len bits completes, any other is a framing error. -/
def Rx.timeout (r : Rx) : Rx :=
  let r := if r.complete then { r with frame := r.sr, err := false } else { r with err := true }
  { r with timer := r.timer.cancel, count := idleCount, sr := 0 }

/-- RX_OPEN's reset of the decode state (R201): configuration and RX.last are kept. -/
def Rx.openSession (r : Rx) : Rx :=
  { r with opened := true, timer := r.timer.cancel, count := idleCount, sr := 0, frame := 0, err := false }

/-- What a reader takes when something is readable (R130, R131): the frame if there is one, else the empty result of a
framing error. -/
def takeFrame (c : CallerId) (s : State) : State :=
  if s.rx.unread then ({ s with rx := { s.rx with frame := 0 } }).finish c (readResult s.rx.frame)
  else ({ s with rx := { s.rx with err := false } }).finish c (readResult 0)

end Sys2Proof.Machine
end

