-- ==== Sys2Proof/Machine/Parity.lean ====
section
/-! DEFINITION. The parity computer (42_parity R150 to R157): pure functions of the unparitized payload. -/

namespace Sys2Proof.Machine

/-- popcount(x): how many bits of x are 1 (R9). -/
def popcount {w : Nat} (x : BitVec w) : Nat := (List.range w).countP fun i => x.getLsbD i

/-- EVENP(x) = popcount(x) mod 2 (R151). -/
def evenP {w : Nat} (x : BitVec w) : Bool := popcount x % 2 == 1

/-- ODDP(x) = 1 − popcount(x) mod 2 (R152). -/
def oddP {w : Nat} (x : BitVec w) : Bool := popcount x % 2 == 0

/-- A parity bit as the lowest bit of a w-bit value. -/
def bitAs (w : Nat) (b : Bool) : BitVec w := (BitVec.ofBool b).setWidth w

/-- PAR26: even parity of v[23:12] on top, v, odd parity of v[11:0] at bit 0 (R154). -/
def par26 (v : BitVec 24) : BitVec 26 :=
  (bitAs 26 (evenP (v.extractLsb' 12 12)) <<< 25) ||| (v.setWidth 26 <<< 1) ||| bitAs 26 (oddP (v.extractLsb' 0 12))

/-- PAYLOAD26: PAR26 of V[23:0], left-aligned in w0; w1 = 0 (R153, R155). -/
def payload26 (V : Word) : Word × Word := ((par26 (V.extractLsb' 0 24)).setWidth 32 <<< 6, 0)

/-- PAYLOAD34 (R156, R157). -/
def payload34 (V : Word) : Word × Word :=
  ((V >>> 1) ||| (bitAs 32 (evenP (V.extractLsb' 16 16)) <<< 31),
   ((V &&& 1) <<< 31) ||| (bitAs 32 (oddP (V.extractLsb' 0 16)) <<< 30))

/-- The payload of V in the format of the given length (R174). -/
def payload (len : FrameLen) (V : Word) : Word × Word :=
  match len with
  | .l26 => payload26 V
  | .l34 => payload34 V

/-- TXBIT(p) = TX.w[p div 32][31 − (p mod 32)] (R108, R176). -/
def txBit (w0 w1 : Word) (p : Nat) : Bool :=
  (if p / 32 = 0 then w0 else w1).getLsbD (31 - p % 32)

/-- The bits of a transmission in line order (R108). -/
def lineBits (len : FrameLen) (V : Word) : List Bool :=
  (List.range len.bits).map (txBit (payload len V).1 (payload len V).2)

end Sys2Proof.Machine
end

