-- ==== Sys2Proof/Machine/Encoder.lean ====
section
/-! DEFINITION. The output encoder: admission, transmission start, the pulse timer and the abort (43_output_encoder
R173 to R184, 44_session_config R203). -/

namespace Sys2Proof.Machine

/-- START(V) (R174), one atomic step. -/
def start (V : Word) (s : State) : State :=
  let p := payload s.tx.len V
  let s := { s with tx := { s.tx with w0 := p.1, w1 := p.2, llen := s.tx.len, pos := 0, phase := .assertPulse,
                                      active := true, done := false } }
  s.release.armTx 0

/-- WAIT_WRITER(c, n) (R175): c waits until TX.done = 1 or its deadline. -/
def waitWriter (c : CallerId) (n : Nat) (s : State) : State :=
  s.suspend c (.waitingWrite (s.now + s.tx.period * s.tx.llen.bits + s.par.wrMargin) n)

/-- A caller that waits in a write gets R183's answer if its transmission is done. -/
def Caller.serveIf (done : Bool) (x : Caller) : Caller :=
  match x.state with
  | .waitingWrite _ n => if done then ⟨.ready, some (writeResult n)⟩ else x
  | _ => x

/-- The completions of R183 still outstanding when a new transmission is admitted: they come before START clears TX.done,
so that only one caller waits in a write (R249; log entry 14). -/
def State.serveDone (s : State) : State := { s with callers := s.callers.map (Caller.serveIf s.tx.done) }

/-- ADMIT(NB); START(V); WAIT_WRITER(c, n) (R171 to R175): NB is checked before TX.active (R243). -/
def transmit (c : CallerId) (nb : Bool) (V : Word) (n : Nat) (s : State) : StepOutcome :=
  if nb then raise c .wouldBlock s
  else if s.tx.active then raise c .busy s
  else .next (waitWriter c n (start V s.serveDone))

/-- Completion branch (R179): nothing is re-armed, the phase stays ASSERT. -/
def completeTx (s : State) : State :=
  { s with tx := { s.tx with timer := s.tx.timer.cancel, active := false, done := true } }

/-- Assert branch (R180): the line of TXBIT(pos) goes low for TX.pw. -/
def assertBit (s : State) : State :=
  let one := txBit s.tx.w0 s.tx.w1 s.tx.pos
  let s := s.drive (if one then s.lines.d0 else false) (if one then false else s.lines.d1)
  let s := { s with tx := { s.tx with pos := s.tx.pos + 1, phase := .gap } }
  s.armTx s.tx.pw.toNat

/-- Gap branch (R181): both lines are released for TX.pi. -/
def gapBit (s : State) : State :=
  let s := { s with tx := { s.tx with phase := .assertPulse } }
  s.release.armTx s.tx.pi.toNat

/-- The pulse timer fires (R178). -/
def pulse (s : State) : State :=
  match s.tx.phase with
  | .assertPulse => if s.tx.finished then completeTx s else assertBit s
  | .gap => gapBit s

/-- ABORT after a writer's deadline (R184): TX.pos is kept. -/
def abort (s : State) : State :=
  { s with tx := { s.tx with timer := s.tx.timer.cancel, active := false, done := false,
                             phase := .assertPulse } }.release

/-- TX_OPEN's reset of the transmit state (R203). -/
def openTx (s : State) : State :=
  { s with tx := { s.tx with opened := true, timer := s.tx.timer.cancel, active := false, done := false,
                             phase := .assertPulse, pos := 0 } }.release

end Sys2Proof.Machine
end

