-- ==== Sys2Proof/Machine/Events.lean ====
section
/-! DEFINITION. The events (30_encoding R98): edges, timer firings, cancellation, completions of waits, reset, time.
An event whose Enabled condition does not hold is no step of the block and is refused by name (log entry 8). -/

namespace Sys2Proof.Machine

/-- An event that is a step only while p holds. -/
def whenEnabled (p : Bool) (o : StepOutcome) : StepOutcome := if p then o else .refused .notEnabled

/-- An event of caller c, given c's position (R55). -/
def ofCaller (c : CallerId) (s : State) (k : CallerState → StepOutcome) : StepOutcome :=
  match s.callers[c]? with
  | none => .refused .noSuchCaller
  | some x => k x.state

/-- EV_EDGE0 (R121): a falling edge on DATA0 is a bit 0 (R111). -/
def execEvEdge0 (s : State) : StepOutcome := .next (edge false s)

/-- EV_EDGE1 (R121): a falling edge on DATA1 is a bit 1 (R111). -/
def execEvEdge1 (s : State) : StepOutcome := .next (edge true s)

/-- EV_RX_TIMER (R128): it fires whatever RX.open is (R271). -/
def execEvRxTimer (s : State) : StepOutcome :=
  whenEnabled (s.rx.timer.firesAt s.now) <| .next { s with rx := s.rx.timeout }

/-- EV_TX_TIMER (R178): it fires whatever TX.open is (R188). -/
def execEvTxTimer (s : State) : StepOutcome :=
  whenEnabled (s.tx.timer.firesAt s.now) <| .next (pulse s)

/-- EV_CANCEL(c) (R205): no RX or TX field changes. -/
def execEvCancel (c : CallerId) (s : State) : StepOutcome :=
  ofCaller c s fun w => whenEnabled w.isWaiting <| raise c .interrupted s

/-- EV_WAKE_READ(c) (R131). -/
def execEvWakeRead (c : CallerId) (s : State) : StepOutcome :=
  ofCaller c s fun w => whenEnabled (w.isReader && s.rx.readable) <| .next (takeFrame c s)

/-- EV_WAKE_WRITE(c) (R183, R184): TX.done is tested first. -/
def execEvWakeWrite (c : CallerId) (s : State) : StepOutcome :=
  ofCaller c s fun w =>
    match w with
    | .waitingWrite wrDue n =>
      whenEnabled (s.writeOver wrDue) <|
        if s.tx.done then reply c (writeResult n) s else raise c .timeout (abort s)
    | _ => .refused .notEnabled

/-- EV_RESET (R260): every field of RX, TX and LINES at its R58 value, waiting callers INTERRUPTED, now kept. -/
def execEvReset (s : State) : StepOutcome :=
  .next (({ s with rx := Rx.reset, tx := Tx.reset, lines := Lines.reset }).interrupt CallerState.isWaiting)

/-- EV_TIME(t) (R14, R15). -/
def execEvTime (t : Nat) (s : State) : StepOutcome :=
  whenEnabled (s.timeAllowed t) <| .next { s with now := t }

end Sys2Proof.Machine
end

