-- ==== Sys2Proof/Machine/RxCommands.lean ====
section
/-! DEFINITION. The decoder's commands: RX_OPEN, RX_CLOSE, RX_READ, RX_POLL, RX_STATUS, RX_STRIP
(41_input_decoder R130 to R134, 44_session_config R201, R202). -/

namespace Sys2Proof.Machine

/-- RX_OPEN (R201). -/
def execRxOpen (c : CallerId) (s : State) : StepOutcome :=
  issue c s <|
    if s.rx.opened then raise c .busy s
    else replyOk c (({ s with rx := s.rx.openSession }).interrupt CallerState.isReader)

/-- RX_CLOSE (R202): an armed deadline and a waiting reader stay (R271). -/
def execRxClose (c : CallerId) (s : State) : StepOutcome :=
  issue c s <| replyOk c { s with rx := { s.rx with opened := false } }

/-- RX_READ (R130); the order of the checks is R243's. -/
def execRxRead (c : CallerId) (nb : Bool) (size : BitVec 4) (s : State) : StepOutcome :=
  issue c s <| requireSession s.rx.opened <|
    if !legalReadSize size then raise c .invalidArgument s
    else if s.rx.readable then .next (takeFrame c s)
    else if nb then raise c .wouldBlock s
    else .next (s.suspend c .waitingRead)

/-- The readiness answer of R132 and R133: 1 if a frame is unread. -/
def readiness (s : State) : Result := valueResult (if s.rx.unread then 1 else 0)

/-- RX_POLL (R132): an error alone answers 0 (R267). -/
def execRxPoll (c : CallerId) (s : State) : StepOutcome :=
  issue c s <| requireSession s.rx.opened <| reply c (readiness s) s

/-- RX_STATUS (R133). -/
def execRxStatus (c : CallerId) (s : State) : StepOutcome :=
  issue c s <| requireSession s.rx.opened <| reply c (readiness s) s

/-- RX_STRIP (R134): a function of A, B and the current RX.len; it needs no session and checks no parity (R135). -/
def execRxStrip (c : CallerId) (a b : Word) (s : State) : StepOutcome :=
  issue c s <| reply c (valueResult (stripped s.rx.len a b)) s

end Sys2Proof.Machine
end

