-- ==== Sys2Proof/Machine/Settings.lean ====
section
/-! DEFINITION. The six SET commands (44_session_config R207 to R213). -/

namespace Sys2Proof.Machine

/-- SET(S, f, A) (R207): the value is checked first, then the busy state; only then is the setting written. `set` is
none for a value out of range, and the state with the new setting otherwise. -/
def setting (c : CallerId) (busy : Bool) (set : Option State) (s : State) : StepOutcome :=
  issue c s <|
    match set with
    | none => raise c .invalidArgument s
    | some t => if busy then raise c .busy s else replyOk c t

/-- RX_SET_PW (R208). -/
def execRxSetPw (c : CallerId) (a : Word) (s : State) : StepOutcome :=
  setting c s.rx.midFrame (if legalTime a then some { s with rx := { s.rx with pw := a } } else none) s

/-- RX_SET_PI (R209). -/
def execRxSetPi (c : CallerId) (a : Word) (s : State) : StepOutcome :=
  setting c s.rx.midFrame (if legalTime a then some { s with rx := { s.rx with pi := a } } else none) s

/-- RX_SET_LEN (R210): an unread frame of the old length is kept. -/
def execRxSetLen (c : CallerId) (a : Word) (s : State) : StepOutcome :=
  setting c s.rx.midFrame ((lenOf a).map fun n => { s with rx := { s.rx with len := n } }) s

/-- TX_SET_PW (R211). -/
def execTxSetPw (c : CallerId) (a : Word) (s : State) : StepOutcome :=
  setting c s.tx.active (if legalTime a then some { s with tx := { s.tx with pw := a } } else none) s

/-- TX_SET_PI (R212). -/
def execTxSetPi (c : CallerId) (a : Word) (s : State) : StepOutcome :=
  setting c s.tx.active (if legalTime a then some { s with tx := { s.tx with pi := a } } else none) s

/-- TX_SET_LEN (R213). -/
def execTxSetLen (c : CallerId) (a : Word) (s : State) : StepOutcome :=
  setting c s.tx.active ((lenOf a).map fun n => { s with tx := { s.tx with len := n } }) s

end Sys2Proof.Machine
end

