-- ==== Sys2Proof/Machine/TxCommands.lean ====
section
/-! DEFINITION. The encoder's commands: TX_OPEN, TX_CLOSE, TX_WRITE, TX_WRITE_BUF (43_output_encoder R171 to R175,
44_session_config R203, R204). -/

namespace Sys2Proof.Machine

/-- TX_OPEN (R203). -/
def execTxOpen (c : CallerId) (s : State) : StepOutcome :=
  issue c s <|
    if s.tx.opened then raise c .busy s
    else replyOk c ((openTx s).interrupt CallerState.isWriter)

/-- TX_CLOSE (R204): a transmission in flight and a waiting writer stay (R188). -/
def execTxClose (c : CallerId) (s : State) : StepOutcome :=
  issue c s <| replyOk c { s with tx := { s.tx with opened := false } }

/-- TX_WRITE (R171). -/
def execTxWrite (c : CallerId) (nb : Bool) (v : Word) (s : State) : StepOutcome :=
  issue c s <| requireSession s.tx.opened <| transmit c nb v 4 s

/-- TX_WRITE_BUF (R172): the size check comes first (R243); a buffer shorter than SIZE is refused (R72). -/
def execTxWriteBuf (c : CallerId) (nb : Bool) (size : BitVec 4) (buf : List Byte) (s : State) : StepOutcome :=
  issue c s <| requireSession s.tx.opened <|
    if !legalWriteSize size then raise c .invalidArgument s
    else match memRead buf size.toNat with
      | none => .refused .shortBuffer
      | some bytes => transmit c nb (payloadValue bytes) size.toNat s

end Sys2Proof.Machine
end

