-- ==== Sys2Proof/Machine/Dispatch.lean ====
section
/-! DEFINITION. exec: one arm per constructor of Instr, in the order of spec/opcode_table.json. -/

namespace Sys2Proof.Machine

def exec (i : Instr) (s : State) : Host.Outcome State Fault Refusal :=
  match i with
  | .rxOpen c => Sys2Proof.Machine.execRxOpen c s
  | .rxClose c => Sys2Proof.Machine.execRxClose c s
  | .rxRead c nb size => Sys2Proof.Machine.execRxRead c nb size s
  | .rxPoll c => Sys2Proof.Machine.execRxPoll c s
  | .rxStatus c => Sys2Proof.Machine.execRxStatus c s
  | .rxStrip c a b => Sys2Proof.Machine.execRxStrip c a b s
  | .rxSetPw c a => Sys2Proof.Machine.execRxSetPw c a s
  | .rxSetPi c a => Sys2Proof.Machine.execRxSetPi c a s
  | .rxSetLen c a => Sys2Proof.Machine.execRxSetLen c a s
  | .txOpen c => Sys2Proof.Machine.execTxOpen c s
  | .txClose c => Sys2Proof.Machine.execTxClose c s
  | .txWrite c nb v => Sys2Proof.Machine.execTxWrite c nb v s
  | .txWriteBuf c nb size buf => Sys2Proof.Machine.execTxWriteBuf c nb size buf s
  | .txSetPw c a => Sys2Proof.Machine.execTxSetPw c a s
  | .txSetPi c a => Sys2Proof.Machine.execTxSetPi c a s
  | .txSetLen c a => Sys2Proof.Machine.execTxSetLen c a s
  | .evEdge0 => Sys2Proof.Machine.execEvEdge0 s
  | .evEdge1 => Sys2Proof.Machine.execEvEdge1 s
  | .evRxTimer => Sys2Proof.Machine.execEvRxTimer s
  | .evTxTimer => Sys2Proof.Machine.execEvTxTimer s
  | .evCancel c => Sys2Proof.Machine.execEvCancel c s
  | .evWakeRead c => Sys2Proof.Machine.execEvWakeRead c s
  | .evWakeWrite c => Sys2Proof.Machine.execEvWakeWrite c s
  | .evReset => Sys2Proof.Machine.execEvReset s
  | .evTime t => Sys2Proof.Machine.execEvTime t s

end Sys2Proof.Machine
end

