-- ==== Sys2Proof/Machine/Step.lean ====
section
/-! DEFINITION. One step of the block: the next agent's input is taken, decoded and run (00_scope R12, R13). -/

namespace Sys2Proof.Machine

/-- One step: the head of State.inputs leaves the list and runs. An input that decodes to no instruction is handled by
rejectInput (R99). -/
def step (s : State) : Host.Outcome State Fault Refusal :=
  match s.inputs with
  | [] => .refused .noInput
  | x :: rest =>
    match decode x with
    | .ok i => exec i { s with inputs := rest }
    | .error _ => rejectInput x { s with inputs := rest }

/-- s with the input of a table word as the next one to be taken (log entry 16). -/
def State.withFetchWord (s : State) (nbits w : Nat) : State := { s with inputs := tableInput nbits w :: s.inputs }

end Sys2Proof.Machine
end

