-- ==== Sys2Proof/Safety.lean ====
section
/-! DEFINITION. The terms claims are stated in: what a caller is told, which instructions belong to which subsystem, and
the invariants the spec says hold after every step (R15, R43, R57). -/

namespace Sys2Proof.Machine

/-! ## What a step says to the callers -/

/-- From s to t, caller c is given the result record r and is Ready; every other caller is as before. -/
structure Answers (c : CallerId) (r : Result) (s t : State) : Prop where
  told   : t.callers[c]? = some ⟨.ready, some r⟩
  others : ∀ d, d ≠ c → t.callers[d]? = s.callers[d]?
  length : t.callers.length = s.callers.length

/-- From s to t, caller c waits in w with no result yet; every other caller is as before. -/
structure Waits (c : CallerId) (w : CallerState) (s t : State) : Prop where
  waiting : t.callers[c]? = some ⟨w, none⟩
  others  : ∀ d, d ≠ c → t.callers[d]? = s.callers[d]?
  length  : t.callers.length = s.callers.length

/-- From s to t, each caller whose position p names is released with INTERRUPTED; every other caller but c is as
before (R233). -/
structure Releases (p : CallerState → Bool) (c : Option CallerId) (s t : State) : Prop where
  released : ∀ d x, some d ≠ c → s.callers[d]? = some x → p x.state = true →
    t.callers[d]? = some ⟨.ready, some ⟨.interrupted, 0, 0, 0, []⟩⟩
  others   : ∀ d x, some d ≠ c → s.callers[d]? = some x → p x.state = false → t.callers[d]? = some x
  length   : t.callers.length = s.callers.length

/-- From s to t, each caller but c that waits in a write whose transmission is done is told so (R183); every other caller
but c is as before. -/
structure Serves (c : CallerId) (s t : State) : Prop where
  served : ∀ d x w n, d ≠ c → s.callers[d]? = some x → x.state = .waitingWrite w n → s.tx.done = true →
    t.callers[d]? = some ⟨.ready, some ⟨.ok, 0, 0, n, []⟩⟩
  others : ∀ d x, d ≠ c → s.callers[d]? = some x → (s.tx.done = false ∨ ∀ w n, x.state ≠ .waitingWrite w n) →
    t.callers[d]? = some x
  length : t.callers.length = s.callers.length

/-- What no command and no event but the named ones touches: the model's parameters, the inputs still to come and the
number of callers. -/
structure SameFrame (s t : State) : Prop where
  par     : t.par = s.par
  inputs  : t.inputs = s.inputs
  callers : t.callers.length = s.callers.length

/-- Nothing of the block changes: neither subsystem, nor the lines, nor the time, nor the draws; only callers may. -/
structure SameBlock (s t : State) : Prop where
  rx      : t.rx = s.rx
  tx      : t.tx = s.tx
  lines   : t.lines = s.lines
  now     : t.now = s.now
  par     : t.par = s.par
  rxDraws : t.rxDraws = s.rxDraws
  txDraws : t.txDraws = s.txDraws
  inputs  : t.inputs = s.inputs

/-- Everything outside the decoder is as before: the encoder, the lines and the time. -/
structure OnlyRx (s t : State) : Prop where
  tx      : t.tx = s.tx
  lines   : t.lines = s.lines
  now     : t.now = s.now
  par     : t.par = s.par
  txDraws : t.txDraws = s.txDraws
  inputs  : t.inputs = s.inputs

/-- Everything outside the encoder and its lines is as before: the decoder and the time. -/
structure OnlyTx (s t : State) : Prop where
  rx      : t.rx = s.rx
  now     : t.now = s.now
  par     : t.par = s.par
  rxDraws : t.rxDraws = s.rxDraws
  inputs  : t.inputs = s.inputs

/-! ## The subsystems (R86) -/

/-- Which subsystem a step belongs to: the decoder, the encoder, or neither alone. -/
inductive Side where
  | decoder
  | encoder
  | shared
  deriving DecidableEq, Repr

/-- The subsystem of each step (R4, R12, R239). -/
def sideOf : Instr → Side
  | .rxOpen _ => .decoder
  | .rxClose _ => .decoder
  | .rxRead _ _ _ => .decoder
  | .rxPoll _ => .decoder
  | .rxStatus _ => .decoder
  | .rxStrip _ _ _ => .decoder
  | .rxSetPw _ _ => .decoder
  | .rxSetPi _ _ => .decoder
  | .rxSetLen _ _ => .decoder
  | .txOpen _ => .encoder
  | .txClose _ => .encoder
  | .txWrite _ _ _ => .encoder
  | .txWriteBuf _ _ _ _ => .encoder
  | .txSetPw _ _ => .encoder
  | .txSetPi _ _ => .encoder
  | .txSetLen _ _ => .encoder
  | .evEdge0 => .decoder
  | .evEdge1 => .decoder
  | .evRxTimer => .decoder
  | .evTxTimer => .encoder
  | .evCancel _ => .shared
  | .evWakeRead _ => .decoder
  | .evWakeWrite _ => .encoder
  | .evReset => .shared
  | .evTime _ => .shared

/-- The caller that issues a command; events have none. -/
def issuerOf : Instr → Option CallerId
  | .rxOpen c => some c
  | .rxClose c => some c
  | .rxRead c _ _ => some c
  | .rxPoll c => some c
  | .rxStatus c => some c
  | .rxStrip c _ _ => some c
  | .rxSetPw c _ => some c
  | .rxSetPi c _ => some c
  | .rxSetLen c _ => some c
  | .txOpen c => some c
  | .txClose c => some c
  | .txWrite c _ _ => some c
  | .txWriteBuf c _ _ _ => some c
  | .txSetPw c _ => some c
  | .txSetPi c _ => some c
  | .txSetLen c _ => some c
  | .evEdge0 => none
  | .evEdge1 => none
  | .evRxTimer => none
  | .evTxTimer => none
  | .evCancel _ => none
  | .evWakeRead _ => none
  | .evWakeWrite _ => none
  | .evReset => none
  | .evTime _ => none

/-! ## Trains of steps -/

/-- The edge event that carries a bit (R111). -/
def edgeOf (b : Bool) : Instr := if b then .evEdge1 else .evEdge0

/-- An edge at time n lies in the acceptance window of R273, or is the first of its frame (R122). -/
def Accepted (r : Rx) (n : Nat) : Prop :=
  r.count = -1 ∨
    (r.last ≤ n ∧ r.pw.toNat ≤ n - r.last ∧ n - r.last ≤ r.pw.toNat + 3 * (r.pw.toNat + r.pi.toNat))

/-- An edge at time n that the glitch filter drops (R123). -/
def Glitch (r : Rx) (n : Nat) : Prop := r.count ≠ -1 ∧ r.last ≤ n ∧ n - r.last < r.pw.toNat

/-- Edges that arrive from s to u: those listed, each with its time and bit, are accepted; any others are glitches. -/
inductive Train : State → List (Nat × Bool) → State → Prop where
  | nil (s : State) : Train s [] s
  | cons {s t u : State} {n : Nat} {b : Bool} {es : List (Nat × Bool)} (ok : Accepted s.rx n)
      (here : exec (edgeOf b) { s with now := n } = .next t) (rest : Train t es u) : Train s ((n, b) :: es) u
  | glitch {s t u : State} {n : Nat} {b : Bool} {es : List (Nat × Bool)} (soon : Glitch s.rx n)
      (here : exec (edgeOf b) { s with now := n } = .next t) (rest : Train t es u) : Train s es u

/-- n firings of the pulse timer in a row, each at its due time, from s to u. -/
inductive Fires : Nat → State → State → Prop where
  | zero (s : State) : Fires 0 s s
  | succ {n : Nat} {s t u : State} (before : Fires n s t)
      (here : exec .evTxTimer { t with now := t.tx.timer.due } = .next u) : Fires (n + 1) s u

/-- b1·2^(n−1) + ... + bn·2^0: the number a bit sequence spells, first bit most significant (R103). -/
def spelled (bits : List Bool) : Nat := bits.foldl (fun acc b => 2 * acc + b.toNat) 0

/-! ## The invariants -/

/-- What holds of the decoder after every step: legal settings (R35), the counter's range (R36), R43's first two points,
and what makes its third one hold: the accumulator has no bit above those shifted in, a held frame none above bit 33. -/
structure DecoderInv (s : State) : Prop where
  pw        : legalTime s.rx.pw = true
  pi        : legalTime s.rx.pi = true
  count_ge  : -1 ≤ s.rx.count
  count_le  : s.rx.count ≤ 127
  idle      : s.rx.count = -1 → s.rx.sr = 0 ∧ s.rx.timer.armed = false
  busy      : 0 ≤ s.rx.count → s.rx.timer.armed = true
  sr_lt     : 0 ≤ s.rx.count → s.rx.sr.toNat < 2 ^ (s.rx.count.toNat + 1)
  frame_lt  : s.rx.frame.toNat < 2 ^ 34

/-- What holds of the encoder after every step: legal settings (R35), the range of TX.pos (R48), the latched length
(R49) and the five points of R57. -/
structure EncoderInv (s : State) : Prop where
  pw        : legalTime s.tx.pw = true
  pi        : legalTime s.tx.pi = true
  pos_le    : s.tx.pos ≤ 34
  llen      : s.tx.active = true → s.tx.llen = s.tx.len
  armed     : s.tx.active = true ↔ s.tx.timer.armed = true
  pos       : s.tx.active = true → s.tx.pos ≤ s.tx.llen.bits
  gap       : s.tx.active = true → s.tx.phase = .gap → s.lines.d0 ≠ s.lines.d1 ∧ 1 ≤ s.tx.pos
  high      : s.tx.phase = .assertPulse → s.lines.d0 = true ∧ s.lines.d1 = true
  rest      : s.tx.active = false → s.lines.d0 = true ∧ s.lines.d1 = true ∧ s.tx.phase = .assertPulse

/-- The µs from the pulse timer's next firing to the completion firing, latencies apart (R178 to R182). -/
def Tx.workLeft (t : Tx) : Nat :=
  (t.llen.bits - t.pos) * (t.pw.toNat + t.pi.toNat) + if t.phase = .gap then t.pi.toNat else 0

/-- How many more times the pulse timer is armed before the completion firing (R178 to R181, R274). -/
def Tx.armsLeft (t : Tx) : Nat := 2 * (t.llen.bits - t.pos) + if t.phase = .gap then 1 else 0

/-- What holds of the writers after every step: only one caller waits in a write (R249), and while its transmission is not
done it is active and completes at most (2L+1)·T_LAT after wr_due − WR_MARGIN (R275). -/
structure WriterInv (s : State) : Prop where
  one    : ∀ (c d : CallerId) (x y : Caller) (w n w' n' : Nat), s.callers[c]? = some x → s.callers[d]? = some y →
    x.state = .waitingWrite w n → y.state = .waitingWrite w' n' → c = d
  served : ∀ (c : CallerId) (x : Caller) (w n : Nat), s.callers[c]? = some x → x.state = .waitingWrite w n →
    s.tx.done = false → s.tx.active = true ∧
      s.tx.timer.due + s.tx.workLeft + s.tx.armsLeft * s.par.tLat + s.par.wrMargin ≤
        w + (2 * s.tx.llen.bits + 1) * s.par.tLat

/-- Nothing is overdue (R15): no armed timer and no waiting writer has its time behind it, and the last accepted edge of
a frame in progress is not in the future. -/
structure OnTime (s : State) : Prop where
  rx     : s.rx.timer.armed = true → s.now ≤ s.rx.timer.due
  tx     : s.tx.timer.armed = true → s.now ≤ s.tx.timer.due
  writer : ∀ x ∈ s.callers, ∀ d n, x.state = .waitingWrite d n → s.now ≤ d
  edge   : 0 ≤ s.rx.count → s.rx.last ≤ s.now

end Sys2Proof.Machine
end

