-- ==== Sys2Proof/Certificates/Slice0/Obligations.lean ====
section
/-! DEFINITION. The statements for the provers, rule by rule. -/

namespace Sys2Proof.Machine

/-- The result record that carries only a status (R96). -/
abbrev bareResult (st : Status) : Result := ⟨st, 0, 0, 0, []⟩

/-- The command ends with status st and nothing of the block changes. -/
def EndsWith (i : Instr) (c : CallerId) (st : Status) (s : State) : Prop :=
  ∃ t, exec i s = .next t ∧ SameBlock s t ∧ Answers c (bareResult st) s t

/-- The 8 little-endian bytes of a 64-bit value, by R74's words. -/
def eightBytes (F : DWord) : List Byte := (List.range 8).map fun k => BitVec.ofNat 8 (F.toNat / 256 ^ k)

/-- The result record of a read that hands back F (R74, R130). -/
def frameResult (F : DWord) : Result :=
  ⟨.ok, BitVec.ofNat 32 F.toNat, BitVec.ofNat 32 (F.toNat / 2 ^ 32), 8, eightBytes F⟩

/-- R99's and R94's conditions on a command word, on its number. -/
def IllegalWord (n : Nat) : Prop :=
  n % 256 ∉ [0x01, 0x02, 0x03, 0x04, 0x05, 0x06, 0x08, 0x09, 0x0A, 0x11, 0x12, 0x13, 0x14, 0x18, 0x19, 0x1A] ∨
  n / 2 ^ 9 % 2 ^ 7 ≠ 0 ∨ n / 2 ^ 20 ≠ 0 ∨
  (n % 256 ∉ [0x03, 0x13, 0x14] ∧ n / 2 ^ 8 % 2 ≠ 0) ∨
  (n % 256 ∉ [0x03, 0x14] ∧ n / 2 ^ 16 % 16 ≠ 0)

/-- A SET command of caller c on a setting: out of range, busy, or written (R207). `after` is what the state must be
like once the setting is written. -/
def SetOutcome (i : Instr) (c : CallerId) (s : State) (legal busy : Prop) (after : State → Prop) : Prop :=
  (¬ legal → EndsWith i c .invalidArgument s) ∧
  (legal → busy → EndsWith i c .busy s) ∧
  (legal → ¬ busy → ∃ t, exec i s = .next t ∧ after t ∧ Answers c (bareResult .ok) s t)

/-- A write of V by caller c has begun, with n bytes to report (R174, R175), and a writer that still waited for the done
transmission before it has its answer (R183, log entry 14). -/
structure WriteBegun (c : CallerId) (V : Word) (n : Nat) (s t : State) : Prop where
  frame  : OnlyTx s t
  tx     : t.tx = { s.tx with w0 := (payload s.tx.len V).1, w1 := (payload s.tx.len V).2, llen := s.tx.len, pos := 0,
                              phase := .assertPulse, active := true, done := false, timer := t.tx.timer }
  armed  : t.tx.timer.armed = true
  due    : s.now ≤ t.tx.timer.due ∧ t.tx.timer.due ≤ s.now + s.par.tLat
  lines  : t.lines = ⟨true, true⟩
  waits  : t.callers[c]? =
    some ⟨.waitingWrite (s.now + (s.tx.pw.toNat + s.tx.pi.toNat) * s.tx.len.bits + s.par.wrMargin) n, none⟩
  serves : Serves c s t

/-- What a write of caller c does after its size check (R171, R173). -/
def WriteOutcome (i : Instr) (c : CallerId) (nb : Bool) (V : Word) (n : Nat) (s : State) : Prop :=
  (nb = true → EndsWith i c .wouldBlock s) ∧
  (nb = false → s.tx.active = true → EndsWith i c .busy s) ∧
  (nb = false → s.tx.active = false → ∃ t, exec i s = .next t ∧ WriteBegun c V n s t)

/-- The step is a SET command, a query, RX_STRIP or a close: a command that repeated at once leaves the same state. -/
def Repeatable : Instr → Prop
  | .rxPoll _ | .rxStatus _ | .rxStrip _ _ _ | .rxClose _ | .txClose _ => True
  | .rxSetPw _ _ | .rxSetPi _ _ | .rxSetLen _ _ | .txSetPw _ _ | .txSetPi _ _ | .txSetLen _ _ => True
  | _ => False

end Sys2Proof.Machine

open Sys2Proof Sys2Proof.Machine

/-! ## Reset, step, encoding -/

/-- R58, R261. -/
def Obligations.InitialStateIsTheResetTable : Prop :=
  let s := State.reset
  (s.rx.opened = false ∧ s.rx.len.bits = 26 ∧ s.rx.pw = 100 ∧ s.rx.pi = 1000 ∧ s.rx.count = -1 ∧ s.rx.sr = 0 ∧
    s.rx.frame = 0 ∧ s.rx.err = false ∧ s.rx.last = 0 ∧ s.rx.timer.armed = false) ∧
  (s.tx.opened = false ∧ s.tx.len.bits = 26 ∧ s.tx.pw = 100 ∧ s.tx.pi = 1000 ∧ s.tx.w0 = 0 ∧ s.tx.w1 = 0 ∧
    s.tx.phase = .assertPulse ∧ s.tx.pos = 0 ∧ s.tx.llen.bits = 26 ∧ s.tx.active = false ∧ s.tx.done = false ∧
    s.tx.timer.armed = false) ∧
  s.lines = ⟨true, true⟩ ∧ (∀ x ∈ s.callers, x.state = .ready) ∧ 1 ≤ s.callers.length ∧ s.now = 0

/-- One step takes the next input, and runs the instruction it decodes to (R12, R13). -/
def Obligations.StepRunsTheDecodedInput : Prop :=
  ∀ (s : State) (x : Input) (rest : List Input) (i : Instr), s.inputs = x :: rest → decode x = .ok i →
    step s = exec i { s with inputs := rest }

/-- R99. -/
def Obligations.IllegalCommandReturnsInvalidArgument : Prop :=
  ∀ (s : State) (c : CallerId) (r : CmdRecord) (rest : List Input), s.inputs = .command c r :: rest →
    s.isReady c = true → IllegalWord r.cmd.toNat →
    ∃ t, step s = .next t ∧ SameBlock { s with inputs := rest } t ∧ Answers c (bareResult .invalidArgument) s t

/-- The decoder accepts exactly the words of the opcode table (R97, R98, R99). -/
def Obligations.DecoderAcceptsExactlyTheTable : Prop :=
  (∀ (c : CallerId) (r : CmdRecord), (∃ i, decode (.command c r) = .ok i) ↔ legalCommand r.cmd = true) ∧
  (∀ (code : Byte) (arg : Nat), (∃ i, decode (.event code arg) = .ok i) ↔ code ∈ eventCodes)

/-- Decoding what the encoder spells gives the instruction back, with every operand. -/
def Obligations.DecodeOfEncode : Prop :=
  ∀ i : Instr, WellFormed i → decode (encode i) = .ok i

/-- The other way: a decoded input's command word or event code is the one the encoder gives its instruction, and what
decode answers is well-formed. -/
def Obligations.DecodedInstructionKeepsItsWord : Prop :=
  ∀ (x : Input) (i : Instr), decode x = .ok i → (encode i).number = x.number ∧ WellFormed i

/-- A few words of the spec's test vectors (95_test_vectors 2.3 to 2.6) and the event codes of R98. -/
def Obligations.SpecWordsDecode : Prop :=
  decodeTableWord 32 0x00080003 = some (.rxRead 0 false 8) ∧
  decodeTableWord 32 0x00080103 = some (.rxRead 0 true 8) ∧
  decodeTableWord 32 0x00000113 = some (.txWrite 0 true 0) ∧
  decodeTableWord 32 0x00040014 = some (.txWriteBuf 0 false 4 [0, 0, 0, 0]) ∧
  decodeTableWord 32 0x0000001A = some (.txSetLen 0 0) ∧
  decodeTableWord 32 0x00000080 = none ∧ decodeTableWord 32 0x00040013 = none ∧
  decodeTableWord 8 0x81 = some .evEdge1 ∧ decodeTableWord 8 0xF0 = some .evReset

/-! ## Decoder session and queries -/

/-- R201. -/
def Obligations.RxOpenStartsAFreshSession : Prop :=
  ∀ (s : State) (c : CallerId), s.isReady c = true →
    (s.rx.opened = true → EndsWith (.rxOpen c) c .busy s) ∧
    (s.rx.opened = false → ∃ t, exec (.rxOpen c) s = .next t ∧
      t.rx = { s.rx with opened := true, timer := ⟨false, s.rx.timer.due⟩, count := -1, sr := 0, frame := 0,
                         err := false } ∧
      OnlyRx s t ∧ t.rxDraws = s.rxDraws ∧ t.callers[c]? = some ⟨.ready, some (bareResult .ok)⟩ ∧
      Releases CallerState.isReader (some c) s t)

/-- R202, R204: both closes succeed and change nothing but the session bit. -/
def Obligations.CloseAlwaysSucceeds : Prop :=
  ∀ (s : State) (c : CallerId), s.isReady c = true →
    (∃ t, exec (.rxClose c) s = .next t ∧ t.rx = { s.rx with opened := false } ∧ OnlyRx s t ∧
      t.rxDraws = s.rxDraws ∧ Answers c (bareResult .ok) s t) ∧
    (∃ t, exec (.txClose c) s = .next t ∧ t.tx = { s.tx with opened := false } ∧ OnlyTx s t ∧
      t.txDraws = s.txDraws ∧ t.lines = s.lines ∧ Answers c (bareResult .ok) s t)

/-- R130, with the cancellation of the wait it may begin. -/
def Obligations.RxReadReturnsFrameErrorOrWaits : Prop :=
  ∀ (s : State) (c : CallerId) (nb : Bool) (size : BitVec 4), s.isReady c = true → s.rx.opened = true →
    (size.toNat < 8 → EndsWith (.rxRead c nb size) c .invalidArgument s) ∧
    (8 ≤ size.toNat → s.rx.frame ≠ 0 → ∃ t, exec (.rxRead c nb size) s = .next t ∧
      t.rx = { s.rx with frame := 0 } ∧ OnlyRx s t ∧ t.rxDraws = s.rxDraws ∧
      Answers c (frameResult s.rx.frame) s t) ∧
    (8 ≤ size.toNat → s.rx.frame = 0 → s.rx.err = true → ∃ t, exec (.rxRead c nb size) s = .next t ∧
      t.rx = { s.rx with err := false } ∧ OnlyRx s t ∧ t.rxDraws = s.rxDraws ∧
      Answers c ⟨.ok, 0, 0, 8, [0, 0, 0, 0, 0, 0, 0, 0]⟩ s t) ∧
    (8 ≤ size.toNat → s.rx.frame = 0 → s.rx.err = false → nb = true →
      EndsWith (.rxRead c nb size) c .wouldBlock s) ∧
    (8 ≤ size.toNat → s.rx.frame = 0 → s.rx.err = false → nb = false →
      ∃ t u, exec (.rxRead c nb size) s = .next t ∧ SameBlock s t ∧ Waits c .waitingRead s t ∧
        exec (.evCancel c) t = .next u ∧ Answers c (bareResult .interrupted) t u)

/-- R132, R133. -/
def Obligations.PollAndStatusReportTheUnreadFrame : Prop :=
  ∀ (s : State) (c : CallerId) (i : Instr), i = .rxPoll c ∨ i = .rxStatus c → s.isReady c = true →
    s.rx.opened = true → ∃ t, exec i s = .next t ∧ SameBlock s t ∧
      Answers c ⟨.ok, if s.rx.frame = 0 then 0 else 1, 0, 0, []⟩ s t

/-- R134: bit k of the answer is frame bit k + 1; it needs no session. -/
def Obligations.RxStripDropsTheParityBits : Prop :=
  ∀ (s : State) (c : CallerId) (a b : Word), s.isReady c = true →
    ∃ t v, exec (.rxStrip c a b) s = .next t ∧ SameBlock s t ∧ Answers c ⟨.ok, v, 0, 0, []⟩ s t ∧
      v.toNat = if s.rx.len = .l26 then a.toNat / 2 % 2 ^ 24 else b.toNat % 2 * 2 ^ 31 + a.toNat / 2

/-! ## Settings -/

/-- R207 for the decoder's three settings (R208 to R210). -/
def Obligations.RxSetChecksValueThenBusy : Prop :=
  ∀ (s : State) (c : CallerId) (a : Word), s.isReady c = true →
    let only := fun t => OnlyRx s t ∧ t.rxDraws = s.rxDraws
    SetOutcome (.rxSetPw c a) c s (1 ≤ a.toNat ∧ a.toNat ≤ 16777215) (s.rx.count ≠ -1)
      (fun t => t.rx = { s.rx with pw := a } ∧ only t) ∧
    SetOutcome (.rxSetPi c a) c s (1 ≤ a.toNat ∧ a.toNat ≤ 16777215) (s.rx.count ≠ -1)
      (fun t => t.rx = { s.rx with pi := a } ∧ only t) ∧
    SetOutcome (.rxSetLen c a) c s (a = 26 ∨ a = 34) (s.rx.count ≠ -1)
      (fun t => t.rx = { s.rx with len := if a = 26 then .l26 else .l34 } ∧ only t)

/-- R207 for the encoder's three settings (R211 to R213). -/
def Obligations.TxSetChecksValueThenBusy : Prop :=
  ∀ (s : State) (c : CallerId) (a : Word), s.isReady c = true →
    let only := fun t => OnlyTx s t ∧ t.txDraws = s.txDraws ∧ t.lines = s.lines
    SetOutcome (.txSetPw c a) c s (1 ≤ a.toNat ∧ a.toNat ≤ 16777215) (s.tx.active = true)
      (fun t => t.tx = { s.tx with pw := a } ∧ only t) ∧
    SetOutcome (.txSetPi c a) c s (1 ≤ a.toNat ∧ a.toNat ≤ 16777215) (s.tx.active = true)
      (fun t => t.tx = { s.tx with pi := a } ∧ only t) ∧
    SetOutcome (.txSetLen c a) c s (a = 26 ∨ a = 34) (s.tx.active = true)
      (fun t => t.tx = { s.tx with len := if a = 26 then .l26 else .l34 } ∧ only t)

/-! ## Encoder session and writes -/

/-- R203. -/
def Obligations.TxOpenAbortsAndStartsAFreshSession : Prop :=
  ∀ (s : State) (c : CallerId), s.isReady c = true →
    (s.tx.opened = true → EndsWith (.txOpen c) c .busy s) ∧
    (s.tx.opened = false → ∃ t, exec (.txOpen c) s = .next t ∧
      t.tx = { s.tx with opened := true, timer := ⟨false, s.tx.timer.due⟩, active := false, done := false,
                         phase := .assertPulse, pos := 0 } ∧
      t.lines = ⟨true, true⟩ ∧ OnlyTx s t ∧ t.txDraws = s.txDraws ∧
      t.callers[c]? = some ⟨.ready, some (bareResult .ok)⟩ ∧ Releases CallerState.isWriter (some c) s t)

/-- R171, R173 to R175, R249. That an admitted write also gives a writer still waiting for the done transmission its answer
is the model's reading of R249 beside R173: log entry 14 (DEDUCED). -/
def Obligations.TxWriteStartsOrIsTurnedAway : Prop :=
  ∀ (s : State) (c : CallerId) (nb : Bool) (v : Word), s.isReady c = true → s.tx.opened = true →
    WriteOutcome (.txWrite c nb v) c nb v 4 s

/-- R172: the size first; then the write of the little-endian word in bytes 0..3. The last clause is the model's own:
R72 calls a short buffer a refusal of the model, and that it comes after the SIZE check and before NB and BUSY is log
entry 11 (DEDUCED); the answer to a writer still waiting is log entry 14 (DEDUCED). -/
def Obligations.TxWriteBufChecksSizeThenWrites : Prop :=
  ∀ (s : State) (c : CallerId) (nb : Bool) (size : BitVec 4) (buf : List Byte), s.isReady c = true →
    s.tx.opened = true →
    (size ≠ 4 → size ≠ 8 → EndsWith (.txWriteBuf c nb size buf) c .invalidArgument s) ∧
    (∀ b0 b1 b2 b3 more, size = 4 ∨ size = 8 → buf = b0 :: b1 :: b2 :: b3 :: more → size.toNat ≤ buf.length →
      WriteOutcome (.txWriteBuf c nb size buf) c nb
        (BitVec.ofNat 32 (b0.toNat + 2 ^ 8 * b1.toNat + 2 ^ 16 * b2.toNat + 2 ^ 24 * b3.toNat)) size.toNat s) ∧
    (size = 4 ∨ size = 8 → buf.length < size.toNat →
      exec (.txWriteBuf c nb size buf) s = .refused .shortBuffer)

/-! ## Edges and the deadline -/

/-- R121 to R127. -/
def Obligations.EdgeIsFirstGlitchGapOrAccepted : Prop :=
  ∀ (s : State) (l : Bool),
    let shifted : DWord := BitVec.ofNat 64 (2 * s.rx.sr.toNat + l.toNat)
    (s.rx.opened = false → exec (edgeOf l) s = .next s) ∧
    (s.rx.opened = true → s.rx.count = -1 → ∃ t, exec (edgeOf l) s = .next t ∧ OnlyRx s t ∧ t.callers = s.callers ∧
      t.rx = { s.rx with last := s.now, sr := shifted, count := 0, timer := t.rx.timer } ∧
      t.rx.timer.armed = true ∧
      s.now + (s.rx.pw.toNat + s.rx.pi.toNat) * s.rx.len.bits ≤ t.rx.timer.due ∧
      t.rx.timer.due ≤ s.now + (s.rx.pw.toNat + s.rx.pi.toNat) * s.rx.len.bits + s.par.tLat) ∧
    (s.rx.opened = true → s.rx.count ≠ -1 → s.rx.last ≤ s.now →
      (s.now - s.rx.last < s.rx.pw.toNat → exec (edgeOf l) s = .next s) ∧
      (s.rx.pw.toNat + 3 * (s.rx.pw.toNat + s.rx.pi.toNat) < s.now - s.rx.last →
        exec (edgeOf l) s = .next { s with rx :=
          { s.rx with timer := ⟨false, s.rx.timer.due⟩, count := -1, sr := 0 } }) ∧
      (s.rx.pw.toNat ≤ s.now - s.rx.last →
        s.now - s.rx.last ≤ s.rx.pw.toNat + 3 * (s.rx.pw.toNat + s.rx.pi.toNat) →
        exec (edgeOf l) s = .next { s with rx :=
          { s.rx with last := s.now, sr := shifted, count := min (s.rx.count + 1) 127 } }))

/-- R128. The last clause, that a firing which is not armed or not due is refused, is the model's: log entry 8 (DEDUCED). -/
def Obligations.DeadlineCompletesOrErrs : Prop :=
  ∀ s : State,
    (s.rx.timer.armed = true → s.now = s.rx.timer.due →
      (s.rx.count = s.rx.len.bits - 1 → exec .evRxTimer s = .next { s with rx :=
        { s.rx with timer := ⟨false, s.rx.timer.due⟩, frame := s.rx.sr, err := false, count := -1, sr := 0 } }) ∧
      (s.rx.count ≠ s.rx.len.bits - 1 → exec .evRxTimer s = .next { s with rx :=
        { s.rx with timer := ⟨false, s.rx.timer.due⟩, err := true, count := -1, sr := 0 } })) ∧
    (s.rx.timer.armed = false ∨ s.now ≠ s.rx.timer.due → exec .evRxTimer s = .refused .notEnabled)

/-- R43, point 3: a frame completed at length L has no bit at or above position L. -/
def Obligations.CompletedFrameFitsItsLength : Prop :=
  ∀ s t : State, DecoderInv s → s.rx.count = s.rx.len.bits - 1 → exec .evRxTimer s = .next t →
    t.rx.frame.toNat < 2 ^ s.rx.len.bits

/-- R103, R138: k accepted edges, with any glitches between them, and then the deadline, for every k and every spacing
inside the window. -/
def Obligations.FrameOutcomeByEdgeCount : Prop :=
  ∀ (s u v : State) (es : List (Nat × Bool)), s.rx.opened = true → s.rx.count = -1 → s.rx.sr = 0 → es ≠ [] →
    Train s es u → exec .evRxTimer { u with now := u.rx.timer.due } = .next v →
    u.rx.sr = BitVec.ofNat 64 (spelled (es.map Prod.snd)) ∧ v.rx.count = -1 ∧ v.rx.sr = 0 ∧
    (es.length = s.rx.len.bits → v.rx.frame = BitVec.ofNat 64 (spelled (es.map Prod.snd)) ∧ v.rx.err = false) ∧
    (es.length ≠ s.rx.len.bits → v.rx.frame = s.rx.frame ∧ v.rx.err = true)

/-- R269: of two edges at one instant the second changes nothing once the first is accepted. -/
def Obligations.SecondSimultaneousEdgeIsAGlitch : Prop :=
  ∀ (s t : State) (l m : Bool), DecoderInv s → s.rx.opened = true → Accepted s.rx s.now →
    exec (edgeOf l) s = .next t → exec (edgeOf m) t = .next t

/-! ## The pulse timer -/

/-- R178 to R181. The last clause, that a firing which is not armed or not due is refused, is the model's: log entry 8
(DEDUCED). -/
def Obligations.PulseTimerBranches : Prop :=
  ∀ s : State,
    (s.tx.timer.armed = true → s.now = s.tx.timer.due →
      (s.tx.phase = .assertPulse → s.tx.pos = s.tx.llen.bits → exec .evTxTimer s = .next { s with tx :=
        { s.tx with timer := ⟨false, s.tx.timer.due⟩, active := false, done := true } }) ∧
      (s.tx.phase = .assertPulse → s.tx.pos ≠ s.tx.llen.bits → ∃ t, exec .evTxTimer s = .next t ∧ OnlyTx s t ∧
        t.callers = s.callers ∧
        t.lines = (if txBit s.tx.w0 s.tx.w1 s.tx.pos then ⟨s.lines.d0, false⟩ else ⟨false, s.lines.d1⟩) ∧
        t.tx = { s.tx with pos := s.tx.pos + 1, phase := .gap, timer := t.tx.timer } ∧ t.tx.timer.armed = true ∧
        s.now + s.tx.pw.toNat ≤ t.tx.timer.due ∧ t.tx.timer.due ≤ s.now + s.tx.pw.toNat + s.par.tLat) ∧
      (s.tx.phase = .gap → ∃ t, exec .evTxTimer s = .next t ∧ OnlyTx s t ∧ t.callers = s.callers ∧
        t.lines = ⟨true, true⟩ ∧ t.tx = { s.tx with phase := .assertPulse, timer := t.tx.timer } ∧
        t.tx.timer.armed = true ∧
        s.now + s.tx.pi.toNat ≤ t.tx.timer.due ∧ t.tx.timer.due ≤ s.now + s.tx.pi.toNat + s.par.tLat)) ∧
    (s.tx.timer.armed = false ∨ s.now ≠ s.tx.timer.due → exec .evTxTimer s = .refused .notEnabled)

/-- R182: the waveform of a write with T_LAT = 0, firing by firing: L pulses, the p-th on the line of bit p from
t0 + p(pw+pi) for pw, and completion at t0 + L(pw+pi). -/
def Obligations.WaveformOfAWrite : Prop :=
  ∀ (s t : State) (c : CallerId) (V : Word), s.par.tLat = 0 → s.tx.active = false →
    exec (.txWrite c false V) s = .next t →
    let P := s.tx.pw.toNat + s.tx.pi.toNat
    let L := s.tx.len.bits
    (∀ p u, p < L → Fires (2 * p) t u →
      u.tx.timer.armed = true ∧ u.tx.timer.due = s.now + p * P ∧ u.lines = ⟨true, true⟩) ∧
    (∀ p u, p < L → Fires (2 * p + 1) t u →
      u.now = s.now + p * P ∧ u.tx.timer.armed = true ∧ u.tx.timer.due = s.now + p * P + s.tx.pw.toNat ∧
      u.lines = if (lineBits s.tx.len V)[p]? = some true then ⟨true, false⟩ else ⟨false, true⟩) ∧
    (∃ u, Fires (2 * L + 1) t u ∧ u.now = s.now + L * P ∧ u.tx.active = false ∧ u.tx.done = true ∧
      u.tx.timer.armed = false ∧ u.lines = ⟨true, true⟩)

/-! ## Cancellation, completions of waits, reset, time -/

/-- R205. The last clause, the refusal for a Ready caller, is the model's form of R205's "A cancellation for a caller that
is Ready has no step": log entry 8 (DEDUCED). -/
def Obligations.CancelInterruptsAWaitingCaller : Prop :=
  ∀ (s : State) (c : CallerId) (x : Caller), s.callers[c]? = some x →
    (x.state ≠ .ready → ∃ t, exec (.evCancel c) s = .next t ∧ SameBlock s t ∧
      Answers c (bareResult .interrupted) s t) ∧
    (x.state = .ready → exec (.evCancel c) s = .refused .notEnabled)

/-- R131. The last clause, the refusal for a caller that is not reading or with nothing readable, is the model's: log
entry 8 (DEDUCED). -/
def Obligations.WakeReadCompletesAWaitingRead : Prop :=
  ∀ (s : State) (c : CallerId) (x : Caller), s.callers[c]? = some x →
    (x.state = .waitingRead → s.rx.frame ≠ 0 → ∃ t, exec (.evWakeRead c) s = .next t ∧
      t.rx = { s.rx with frame := 0 } ∧ OnlyRx s t ∧ t.rxDraws = s.rxDraws ∧
      Answers c (frameResult s.rx.frame) s t) ∧
    (x.state = .waitingRead → s.rx.frame = 0 → s.rx.err = true → ∃ t, exec (.evWakeRead c) s = .next t ∧
      t.rx = { s.rx with err := false } ∧ OnlyRx s t ∧ t.rxDraws = s.rxDraws ∧
      Answers c ⟨.ok, 0, 0, 8, [0, 0, 0, 0, 0, 0, 0, 0]⟩ s t) ∧
    (x.state ≠ .waitingRead ∨ (s.rx.frame = 0 ∧ s.rx.err = false) →
      exec (.evWakeRead c) s = .refused .notEnabled)

/-- R183, R184. The last clause, the refusal before the deadline of a write that is not done, is the model's: log entry 8
(DEDUCED). -/
def Obligations.WakeWriteReportsDoneOrTimeout : Prop :=
  ∀ (s : State) (c : CallerId) (x : Caller) (wrDue n : Nat), s.callers[c]? = some x →
    x.state = .waitingWrite wrDue n →
    (s.tx.done = true → ∃ t, exec (.evWakeWrite c) s = .next t ∧ SameBlock s t ∧
      Answers c ⟨.ok, 0, 0, n, []⟩ s t) ∧
    (s.tx.done = false → wrDue ≤ s.now → ∃ t, exec (.evWakeWrite c) s = .next t ∧
      t.tx = { s.tx with timer := ⟨false, s.tx.timer.due⟩, active := false, done := false, phase := .assertPulse } ∧
      t.lines = ⟨true, true⟩ ∧ OnlyTx s t ∧ t.txDraws = s.txDraws ∧ Answers c (bareResult .timeout) s t) ∧
    (s.tx.done = false → s.now < wrDue → exec (.evWakeWrite c) s = .refused .notEnabled)

/-- R183's operand is a caller that waits in a write; that the event is refused for any other existing caller is the
model's: log entry 8 (DEDUCED). -/
def Obligations.WakeWriteOfOtherCallersIsRefused : Prop :=
  ∀ (s : State) (c : CallerId) (x : Caller), s.callers[c]? = some x → (∀ wrDue n, x.state ≠ .waitingWrite wrDue n) →
    exec (.evWakeWrite c) s = .refused .notEnabled

/-- R260. -/
def Obligations.ResetRestoresTheTable : Prop :=
  ∀ s : State, ∃ t, exec .evReset s = .next t ∧ t.rx = { Rx.reset with timer := ⟨false, t.rx.timer.due⟩ } ∧
    t.tx = { Tx.reset with timer := ⟨false, t.tx.timer.due⟩ } ∧ t.lines = ⟨true, true⟩ ∧ t.now = s.now ∧ (∀ x ∈ t.callers, x.state = .ready) ∧
    SameFrame s t ∧ Releases (fun w => w ≠ .ready) none s t

/-- R14, R15: when a time step is allowed, and that a due agent's step is enabled while time is not. That a time step not
allowed is refused as notEnabled is the model's: log entry 8 (DEDUCED). -/
def Obligations.TimeIsUrgent : Prop :=
  ∀ (s : State) (n : Nat),
    (s.now < n → (s.rx.timer.armed = true → n ≤ s.rx.timer.due) → (s.tx.timer.armed = true → n ≤ s.tx.timer.due) →
      (∀ x ∈ s.callers, ∀ d k, x.state = .waitingWrite d k → n ≤ d) →
      exec (.evTime n) s = .next { s with now := n }) ∧
    (∀ t, exec (.evTime n) s = .next t → s.now < n ∧ (s.rx.timer.armed = true → n ≤ s.rx.timer.due) ∧
      (s.tx.timer.armed = true → n ≤ s.tx.timer.due) ∧
      ∀ x ∈ s.callers, ∀ d k, x.state = .waitingWrite d k → n ≤ d) ∧
    (s.rx.timer.armed = true → s.now = s.rx.timer.due →
      (∃ t, exec .evRxTimer s = .next t) ∧ exec (.evTime n) s = .refused .notEnabled) ∧
    (s.tx.timer.armed = true → s.now = s.tx.timer.due →
      (∃ t, exec .evTxTimer s = .next t) ∧ exec (.evTime n) s = .refused .notEnabled) ∧
    (∀ (c : CallerId) x d k, s.callers[c]? = some x → x.state = .waitingWrite d k → s.now = d →
      (∃ t, exec (.evWakeWrite c) s = .next t) ∧ exec (.evTime n) s = .refused .notEnabled)

/-- Where nothing is overdue, either time can move or some due agent can (R15, R19). -/
def Obligations.TimeIsNeverStuck : Prop :=
  ∀ s : State, OnTime s →
    (∃ t, exec (.evTime (s.now + 1)) s = .next t) ∨ (∃ t, exec .evRxTimer s = .next t) ∨
    (∃ t, exec .evTxTimer s = .next t) ∨ (∃ c t, exec (.evWakeWrite c) s = .next t)

/-! ## Where a command is no step -/

/-- R206; that the session is checked before the command's other checks is log entry 10 (DEDUCED). -/
def Obligations.ClosedSessionRefusesReadsWritesAndQueries : Prop :=
  ∀ (s : State) (c : CallerId), s.isReady c = true →
    (s.rx.opened = false →
      (∀ nb size, exec (.rxRead c nb size) s = .refused .noSession) ∧
      exec (.rxPoll c) s = .refused .noSession ∧ exec (.rxStatus c) s = .refused .noSession) ∧
    (s.tx.opened = false →
      (∀ nb v, exec (.txWrite c nb v) s = .refused .noSession) ∧
      (∀ nb size buf, exec (.txWriteBuf c nb size buf) s = .refused .noSession))

/-- R16: a waiting caller takes no step of its own; that its commands are refused is log entry 9 (DEDUCED). -/
def Obligations.WaitingCallerIssuesNothing : Prop :=
  ∀ (s : State) (i : Instr) (c : CallerId) (x : Caller), issuerOf i = some c → s.callers[c]? = some x →
    x.state ≠ .ready → exec i s = .refused .callerWaiting

/-! ## Whole-machine rules -/

/-- R18, R14: now never decreases, and only EV_TIME moves it. -/
def Obligations.OnlyTimeStepsMoveNow : Prop :=
  ∀ (s t : State) (i : Instr), exec i s = .next t →
    (∃ n, i = .evTime n ∧ t.now = n ∧ s.now < n) ∨ ((∀ n, i ≠ .evTime n) ∧ t.now = s.now)

/-- R8, R20: no step changes the instance's parameters, the number of callers or the inputs still to come. -/
def Obligations.NoStepChangesTheInstance : Prop :=
  ∀ (s t : State) (i : Instr), exec i s = .next t → SameFrame s t

/-- R31, R45: which steps write a session bit, R32 to R34 and R46: which write a setting. -/
def Obligations.OnlyTheirOwnCommandsWriteSessionsAndSettings : Prop :=
  ∀ (s t : State) (i : Instr), exec i s = .next t → i ≠ .evReset →
    ((∀ c, i ≠ .rxOpen c) → (∀ c, i ≠ .rxClose c) → t.rx.opened = s.rx.opened) ∧
    ((∀ c, i ≠ .txOpen c) → (∀ c, i ≠ .txClose c) → t.tx.opened = s.tx.opened) ∧
    ((∀ c a, i ≠ .rxSetPw c a) → t.rx.pw = s.rx.pw) ∧ ((∀ c a, i ≠ .rxSetPi c a) → t.rx.pi = s.rx.pi) ∧
    ((∀ c a, i ≠ .rxSetLen c a) → t.rx.len = s.rx.len) ∧
    ((∀ c a, i ≠ .txSetPw c a) → t.tx.pw = s.tx.pw) ∧ ((∀ c a, i ≠ .txSetPi c a) → t.tx.pi = s.tx.pi) ∧
    ((∀ c a, i ≠ .txSetLen c a) → t.tx.len = s.tx.len)

/-- R38, R39, R40: which steps write the accumulator, the held frame and the error flag. -/
def Obligations.OnlyDecoderStepsWriteFrameAndError : Prop :=
  ∀ (s t : State) (i : Instr), exec i s = .next t → i ≠ .evReset → (∀ c, i ≠ .rxOpen c) → i ≠ .evRxTimer →
    ((∀ c nb size, i ≠ .rxRead c nb size) → (∀ c, i ≠ .evWakeRead c) →
      t.rx.frame = s.rx.frame ∧ t.rx.err = s.rx.err) ∧
    (i ≠ .evEdge0 → i ≠ .evEdge1 → t.rx.sr = s.rx.sr ∧ t.rx.count = s.rx.count ∧ t.rx.last = s.rx.last ∧
      t.rx.timer = s.rx.timer)

/-- R53: which steps drive the lines. -/
def Obligations.OnlyTheEncoderDrivesTheLines : Prop :=
  ∀ (s t : State) (i : Instr), exec i s = .next t → i ≠ .evReset → i ≠ .evTxTimer → (∀ c, i ≠ .txOpen c) →
    (∀ c nb v, i ≠ .txWrite c nb v) → (∀ c nb size buf, i ≠ .txWriteBuf c nb size buf) →
    (∀ c, i ≠ .evWakeWrite c) → t.lines = s.lines

/-- R187. -/
def Obligations.TransmissionIsFrozenWhileActive : Prop :=
  ∀ (s t : State) (i : Instr), exec i s = .next t → s.tx.active = true → t.tx.active = true →
    t.tx.llen = s.tx.llen ∧ t.tx.w0 = s.tx.w0 ∧ t.tx.w1 = s.tx.w1 ∧ t.tx.pw = s.tx.pw ∧ t.tx.pi = s.tx.pi

/-- R86: a decoder step changes nothing of the encoder, an encoder step nothing of the decoder, and what either does to
its own subsystem does not depend on the other. -/
def Obligations.SubsystemsAreIndependent : Prop :=
  (∀ (s t : State) (i : Instr), exec i s = .next t →
    (sideOf i = .decoder → OnlyRx s t) ∧ (sideOf i = .encoder → OnlyTx s t)) ∧
  (∀ (s s' t : State) (i : Instr), exec i s = .next t → s'.callers = s.callers → s'.now = s.now → s'.par = s.par →
    (sideOf i = .decoder → s'.rx = s.rx → s'.rxDraws = s.rxDraws →
      ∃ t', exec i s' = .next t' ∧ t'.rx = t.rx ∧ t'.callers = t.callers ∧ t'.rxDraws = t.rxDraws) ∧
    (sideOf i = .encoder → s'.tx = s.tx → s'.lines = s.lines → s'.txDraws = s.txDraws →
      ∃ t', exec i s' = .next t' ∧ t'.tx = t.tx ∧ t'.lines = t.lines ∧ t'.callers = t.callers ∧
        t'.txDraws = t.txDraws))

/-- R86, R13: an event of the decoder and one of the encoder give the same state in either order. -/
def Obligations.EdgesAndTimersCommute : Prop :=
  ∀ (s a b : State) (i : Instr), i = .evEdge0 ∨ i = .evEdge1 ∨ i = .evRxTimer → exec i s = .next a →
    exec .evTxTimer s = .next b → ∃ u, exec .evTxTimer a = .next u ∧ exec i b = .next u

/-- R80: a query, a strip or a SET repeated at once leaves the same state; R202, R204: so does a close. -/
def Obligations.RepeatedCommandLeavesTheSameState : Prop :=
  ∀ (s t : State) (i : Instr), Repeatable i → exec i s = .next t → exec i t = .next t

/-- R238: close and open again bring either subsystem to its state after an open, from every state. -/
def Obligations.CloseAndReopenRecovers : Prop :=
  ∀ (s : State) (c : CallerId), s.isReady c = true →
    (∃ t u, exec (.rxClose c) s = .next t ∧ exec (.rxOpen c) t = .next u ∧ u.rx.opened = true ∧ u.rx.count = -1 ∧
      u.rx.sr = 0 ∧ u.rx.frame = 0 ∧ u.rx.err = false ∧ u.rx.timer.armed = false ∧
      ∀ x ∈ u.callers, x.state ≠ .waitingRead) ∧
    (∃ t u, exec (.txClose c) s = .next t ∧ exec (.txOpen c) t = .next u ∧ u.tx.opened = true ∧
      u.tx.active = false ∧ u.tx.done = false ∧ u.tx.phase = .assertPulse ∧ u.tx.pos = 0 ∧
      u.tx.timer.armed = false ∧ u.lines = ⟨true, true⟩ ∧
      ∀ x ∈ u.callers, ∀ w n, x.state ≠ .waitingWrite w n)

/-- A write of caller c with NB = 0, a legal SIZE and its bytes supplied. -/
def PlainWrite (c : CallerId) : Instr → Prop
  | .txWrite d nb _ => d = c ∧ nb = false
  | .txWriteBuf d nb size buf => d = c ∧ nb = false ∧ (size = 4 ∨ size = 8) ∧ size.toNat ≤ buf.length
  | _ => False

/-- R249, R173: with a writer waiting, a second write returns BUSY while the transmission is active; after its completion
firing the second write is admitted, the first writer has its OK, and the second is the only caller that waits in a write.
The state is the one that the first writer's wake and then the write lead to (log entry 14, DEDUCED). -/
def Obligations.OnlyOneCallerWaitsInAWrite : Prop :=
  ∀ (s : State) (c d : CallerId) (x : Caller) (w n : Nat) (i : Instr), WriterInv s → s.callers[d]? = some x →
    x.state = .waitingWrite w n → s.isReady c = true → s.tx.opened = true → PlainWrite c i →
    (s.tx.active = true → EndsWith i c .busy s) ∧
    (s.tx.active = false → ∃ t u w' n', exec i s = .next t ∧
      t.callers[d]? = some ⟨.ready, some ⟨.ok, 0, 0, n, []⟩⟩ ∧ t.callers[c]? = some ⟨.waitingWrite w' n', none⟩ ∧
      (∀ (e : CallerId) (y : Caller) (v k : Nat), t.callers[e]? = some y → y.state = .waitingWrite v k → e = c) ∧
      exec (.evWakeWrite d) s = .next u ∧ exec i u = .next t)

/-- R275, "only if": in every state that meets the writers' invariant and has nothing overdue, a writer gets TIMEOUT only
where (2L+1)·T_LAT ≥ WR_MARGIN; so never with T_LAT = 0 and WR_MARGIN ≥ 1. -/
def Obligations.TimeoutNeedsLatenessOfTheMargin : Prop :=
  ∀ (s t : State) (c : CallerId), WriterInv s → EncoderInv s → OnTime s → exec (.evWakeWrite c) s = .next t →
    t.callers[c]? = some ⟨.ready, some (bareResult .timeout)⟩ →
    s.par.wrMargin ≤ (2 * s.tx.llen.bits + 1) * s.par.tLat ∧ s.tx.active = true

/-- R275, the case of equality: where the completion firing and wr_due fall at one now, the firing first gives the writer
OK and the wake first gives it TIMEOUT. -/
def Obligations.OrderDecidesAtTheDeadline : Prop :=
  ∀ (s : State) (c : CallerId) (x : Caller) (n : Nat), s.callers[c]? = some x → x.state = .waitingWrite s.now n →
    s.tx.done = false → s.tx.timer = ⟨true, s.now⟩ → s.tx.phase = .assertPulse → s.tx.pos = s.tx.llen.bits →
    (∃ t u, exec .evTxTimer s = .next t ∧ exec (.evWakeWrite c) t = .next u ∧ Answers c ⟨.ok, 0, 0, n, []⟩ s u ∧
      u.tx.done = true) ∧
    (∃ u, exec (.evWakeWrite c) s = .next u ∧ Answers c (bareResult .timeout) s u ∧ u.tx.done = false ∧
      u.tx.timer.armed = false)

/-- R275, "if", with T_LAT = 0: after the 2L firings of a write with WR_MARGIN = 0 the completion firing is due at the
writer's deadline, so the write can end in TIMEOUT. -/
def Obligations.TimeoutCanHappenWithoutMargin : Prop :=
  ∀ (s t u : State) (c : CallerId) (V : Word), s.par = ⟨0, 0⟩ → s.tx.active = false →
    exec (.txWrite c false V) s = .next t → Fires (2 * s.tx.len.bits) t u →
    ∃ v, exec (.evWakeWrite c) { u with now := u.tx.timer.due } = .next v ∧
      v.callers[c]? = some ⟨.ready, some (bareResult .timeout)⟩ ∧ v.lines = ⟨true, true⟩ ∧ v.tx.active = false

/-! ## Invariants -/

/-- The four invariants hold in the initial state. -/
def Obligations.InvariantsHoldAtReset : Prop :=
  DecoderInv State.reset ∧ EncoderInv State.reset ∧ WriterInv State.reset ∧ OnTime State.reset

/-- R43, R35, R36. -/
def Obligations.StepKeepsDecoderInv : Prop :=
  ∀ s t : State, DecoderInv s → step s = .next t → DecoderInv t

/-- R57, R35, R48, R49. -/
def Obligations.StepKeepsEncoderInv : Prop :=
  ∀ s t : State, EncoderInv s → step s = .next t → EncoderInv t

/-- R249, R275: only one caller waits in a write, and its transmission completes at most (2L+1)·T_LAT after
wr_due − WR_MARGIN. -/
def Obligations.StepKeepsWriterInv : Prop :=
  ∀ s t : State, EncoderInv s → WriterInv s → step s = .next t → WriterInv t

/-- R15, R18. -/
def Obligations.StepKeepsOnTime : Prop :=
  ∀ s t : State, OnTime s → step s = .next t → OnTime t

/-! ## Parity -/

/-- R151, R152, over the sum of the bits. -/
def Obligations.ParityBitsCompleteTheCount : Prop :=
  ∀ (w : Nat) (x : BitVec w),
    ((∑ i ∈ Finset.range w, (x.getLsbD i).toNat) + (evenP x).toNat) % 2 = 0 ∧
    ((∑ i ∈ Finset.range w, (x.getLsbD i).toNat) + (oddP x).toNat) % 2 = 1

/-- R154. -/
def Obligations.Par26Layout : Prop :=
  ∀ v : BitVec 24,
    (par26 v).toNat = 2 ^ 25 * (evenP (v.extractLsb' 12 12)).toNat + 2 * v.toNat + (oddP (v.extractLsb' 0 12)).toNat ∧
    par26 v ≠ 0

/-- R104, R105 (R106 to R108): the bits on the line, first bit first, for both formats. -/
def Obligations.LineOrderOfAWrite : Prop :=
  ∀ V : Word,
    lineBits .l26 V = evenP (V.extractLsb' 12 12) ::
      ((List.range 24).map fun k => V.getLsbD (23 - k)) ++ [oddP (V.extractLsb' 0 12)] ∧
    lineBits .l34 V = evenP (V.extractLsb' 16 16) ::
      ((List.range 32).map fun k => V.getLsbD (31 - k)) ++ [oddP (V.extractLsb' 0 16)]

/-- R158, R159: the bits sent for V, shifted into a zero accumulator by the decoder and stripped, give V back. -/
def Obligations.EncodeThenStripRoundTrip : Prop :=
  ∀ (V : Word) (r : Rx), r.sr = 0 →
    (let F := ((lineBits .l26 V).foldl (fun r b => r.shiftIn b) r).sr
     (stripped .l26 (loWord F) (hiWord F)).toNat = V.toNat % 2 ^ 24) ∧
    (let F := ((lineBits .l34 V).foldl (fun r b => r.shiftIn b) r).sr
     stripped .l34 (loWord F) (hiWord F) = V)

/-- R160, R161: the parity of a conforming frame, over the bits received. -/
def Obligations.ConformingFrameParity : Prop :=
  ∀ (V : Word),
    ((∑ i ∈ Finset.range 13, ((par26 (V.extractLsb' 0 24)).getLsbD (13 + i)).toNat) % 2 = 0 ∧
     (∑ i ∈ Finset.range 13, ((par26 (V.extractLsb' 0 24)).getLsbD i).toNat) % 2 = 1) ∧
    (let F : DWord := BitVec.ofNat 64 (spelled (lineBits .l34 V))
     (∑ i ∈ Finset.range 17, (F.getLsbD (17 + i)).toNat) % 2 = 0 ∧
     (∑ i ∈ Finset.range 17, (F.getLsbD i).toNat) % 2 = 1)
end

