-- ==== Sys2Proof/Laws/Decode.lean ====
section
/-! SUPPORT. The fields of a command word the encoder builds (R90): each reads back as it was put in. -/

namespace Sys2Proof

variable (op : Byte) (nb : Bool) (size : BitVec 4)

theorem opOf_cmdWord : opOf (cmdWord op nb size) = op := by
  unfold opOf field cmdWord
  apply BitVec.eq_of_getLsbD_eq
  intro i hi
  have h : i < 8 := hi
  simp only [BitVec.getLsbD_extractLsb', BitVec.getLsbD_append, h, Nat.zero_add, decide_true, Bool.true_and, if_true]

theorem nbOf_cmdWord : nbOf (cmdWord op nb size) = nb := by
  cases nb <;> simp only [nbOf, cmdWord, BitVec.getLsbD_append] <;> decide +revert

theorem sizeOf4_cmdWord : sizeOf4 (cmdWord op nb size) = size := by
  unfold sizeOf4 field cmdWord
  apply BitVec.eq_of_getLsbD_eq
  intro i hi
  have h : i < 4 := hi
  have h1 : ¬ 16 + i < 8 := by omega
  have h2 : ¬ 16 + i - 8 < 1 := by omega
  have h3 : ¬ 16 + i - 8 - 1 < 7 := by omega
  have h4 : 16 + i - 8 - 1 - 7 = i := by omega
  simp only [BitVec.getLsbD_extractLsb', BitVec.getLsbD_append, h1, h2, h3, h4, h, if_false, if_true]
  simp [h]

theorem reservedZero_cmdWord : reservedZero (cmdWord op nb size) = true := by
  have lo : field 15 9 (cmdWord op nb size) = 0 := by
    unfold field cmdWord
    apply BitVec.eq_of_getLsbD_eq
    intro i hi
    have h : i < 7 := hi
    have h1 : ¬ 9 + i < 8 := by omega
    have h2 : ¬ 9 + i - 8 < 1 := by omega
    have h3 : 9 + i - 8 - 1 < 7 := by omega
    simp only [BitVec.getLsbD_extractLsb', BitVec.getLsbD_append, h1, h2, h3, if_false, if_true]
    simp
  have hi : field 31 20 (cmdWord op nb size) = 0 := by
    unfold field cmdWord
    apply BitVec.eq_of_getLsbD_eq
    intro i hi
    have h : i < 12 := hi
    have h1 : ¬ 20 + i < 8 := by omega
    have h2 : ¬ 20 + i - 8 < 1 := by omega
    have h3 : ¬ 20 + i - 8 - 1 < 7 := by omega
    have h4 : ¬ 20 + i - 8 - 1 - 7 < 4 := by omega
    simp only [BitVec.getLsbD_extractLsb', BitVec.getLsbD_append, h1, h2, h3, h4, if_false]
    simp
  simp [reservedZero, lo, hi]

end Sys2Proof
end

