-- ==== Sys2Proof/Laws/State.lean ====
section
/-! SUPPORT. One lemma per field per update of the state, each true by rfl, so that no proof unfolds an update. -/

namespace Sys2Proof.Machine

variable (s : State)

/-! ### finish -/

@[simp] theorem State.finish_rx (c : CallerId) (r : Result) : (s.finish c r).rx = s.rx := rfl
@[simp] theorem State.finish_tx (c : CallerId) (r : Result) : (s.finish c r).tx = s.tx := rfl
@[simp] theorem State.finish_lines (c : CallerId) (r : Result) : (s.finish c r).lines = s.lines := rfl
@[simp] theorem State.finish_callers (c : CallerId) (r : Result) : (s.finish c r).callers = s.callers.set c ⟨.ready, some r⟩ := rfl
@[simp] theorem State.finish_now (c : CallerId) (r : Result) : (s.finish c r).now = s.now := rfl
@[simp] theorem State.finish_par (c : CallerId) (r : Result) : (s.finish c r).par = s.par := rfl
@[simp] theorem State.finish_rxDraws (c : CallerId) (r : Result) : (s.finish c r).rxDraws = s.rxDraws := rfl
@[simp] theorem State.finish_txDraws (c : CallerId) (r : Result) : (s.finish c r).txDraws = s.txDraws := rfl
@[simp] theorem State.finish_inputs (c : CallerId) (r : Result) : (s.finish c r).inputs = s.inputs := rfl

/-! ### suspend -/

@[simp] theorem State.suspend_rx (c : CallerId) (w : CallerState) : (s.suspend c w).rx = s.rx := rfl
@[simp] theorem State.suspend_tx (c : CallerId) (w : CallerState) : (s.suspend c w).tx = s.tx := rfl
@[simp] theorem State.suspend_lines (c : CallerId) (w : CallerState) : (s.suspend c w).lines = s.lines := rfl
@[simp] theorem State.suspend_callers (c : CallerId) (w : CallerState) : (s.suspend c w).callers = s.callers.set c ⟨w, none⟩ := rfl
@[simp] theorem State.suspend_now (c : CallerId) (w : CallerState) : (s.suspend c w).now = s.now := rfl
@[simp] theorem State.suspend_par (c : CallerId) (w : CallerState) : (s.suspend c w).par = s.par := rfl
@[simp] theorem State.suspend_rxDraws (c : CallerId) (w : CallerState) : (s.suspend c w).rxDraws = s.rxDraws := rfl
@[simp] theorem State.suspend_txDraws (c : CallerId) (w : CallerState) : (s.suspend c w).txDraws = s.txDraws := rfl
@[simp] theorem State.suspend_inputs (c : CallerId) (w : CallerState) : (s.suspend c w).inputs = s.inputs := rfl

/-! ### interrupt -/

@[simp] theorem State.interrupt_rx (p : CallerState → Bool) : (s.interrupt p).rx = s.rx := rfl
@[simp] theorem State.interrupt_tx (p : CallerState → Bool) : (s.interrupt p).tx = s.tx := rfl
@[simp] theorem State.interrupt_lines (p : CallerState → Bool) : (s.interrupt p).lines = s.lines := rfl
@[simp] theorem State.interrupt_callers (p : CallerState → Bool) : (s.interrupt p).callers = s.callers.map (Caller.interruptIf p) := rfl
@[simp] theorem State.interrupt_now (p : CallerState → Bool) : (s.interrupt p).now = s.now := rfl
@[simp] theorem State.interrupt_par (p : CallerState → Bool) : (s.interrupt p).par = s.par := rfl
@[simp] theorem State.interrupt_rxDraws (p : CallerState → Bool) : (s.interrupt p).rxDraws = s.rxDraws := rfl
@[simp] theorem State.interrupt_txDraws (p : CallerState → Bool) : (s.interrupt p).txDraws = s.txDraws := rfl
@[simp] theorem State.interrupt_inputs (p : CallerState → Bool) : (s.interrupt p).inputs = s.inputs := rfl

/-! ### serveDone -/

@[simp] theorem State.serveDone_rx : s.serveDone.rx = s.rx := rfl
@[simp] theorem State.serveDone_tx : s.serveDone.tx = s.tx := rfl
@[simp] theorem State.serveDone_lines : s.serveDone.lines = s.lines := rfl
@[simp] theorem State.serveDone_callers : s.serveDone.callers = s.callers.map (Caller.serveIf s.tx.done) := rfl
@[simp] theorem State.serveDone_now : s.serveDone.now = s.now := rfl
@[simp] theorem State.serveDone_par : s.serveDone.par = s.par := rfl
@[simp] theorem State.serveDone_rxDraws : s.serveDone.rxDraws = s.rxDraws := rfl
@[simp] theorem State.serveDone_txDraws : s.serveDone.txDraws = s.txDraws := rfl
@[simp] theorem State.serveDone_inputs : s.serveDone.inputs = s.inputs := rfl

/-! ### armRx -/

@[simp] theorem State.armRx_rx (d : Nat) : (s.armRx d).rx = { s.rx with timer := ⟨true, s.now + d + s.latency .rx⟩ } := rfl
@[simp] theorem State.armRx_tx (d : Nat) : (s.armRx d).tx = s.tx := rfl
@[simp] theorem State.armRx_lines (d : Nat) : (s.armRx d).lines = s.lines := rfl
@[simp] theorem State.armRx_callers (d : Nat) : (s.armRx d).callers = s.callers := rfl
@[simp] theorem State.armRx_now (d : Nat) : (s.armRx d).now = s.now := rfl
@[simp] theorem State.armRx_par (d : Nat) : (s.armRx d).par = s.par := rfl
@[simp] theorem State.armRx_rxDraws (d : Nat) : (s.armRx d).rxDraws = s.rxDraws + 1 := rfl
@[simp] theorem State.armRx_txDraws (d : Nat) : (s.armRx d).txDraws = s.txDraws := rfl
@[simp] theorem State.armRx_inputs (d : Nat) : (s.armRx d).inputs = s.inputs := rfl

/-! ### armTx -/

@[simp] theorem State.armTx_rx (d : Nat) : (s.armTx d).rx = s.rx := rfl
@[simp] theorem State.armTx_tx (d : Nat) : (s.armTx d).tx = { s.tx with timer := ⟨true, s.now + d + s.latency .tx⟩ } := rfl
@[simp] theorem State.armTx_lines (d : Nat) : (s.armTx d).lines = s.lines := rfl
@[simp] theorem State.armTx_callers (d : Nat) : (s.armTx d).callers = s.callers := rfl
@[simp] theorem State.armTx_now (d : Nat) : (s.armTx d).now = s.now := rfl
@[simp] theorem State.armTx_par (d : Nat) : (s.armTx d).par = s.par := rfl
@[simp] theorem State.armTx_rxDraws (d : Nat) : (s.armTx d).rxDraws = s.rxDraws := rfl
@[simp] theorem State.armTx_txDraws (d : Nat) : (s.armTx d).txDraws = s.txDraws + 1 := rfl
@[simp] theorem State.armTx_inputs (d : Nat) : (s.armTx d).inputs = s.inputs := rfl

/-! ### drive -/

@[simp] theorem State.drive_rx (a b : Bool) : (s.drive a b).rx = s.rx := rfl
@[simp] theorem State.drive_tx (a b : Bool) : (s.drive a b).tx = s.tx := rfl
@[simp] theorem State.drive_lines (a b : Bool) : (s.drive a b).lines = ⟨a, b⟩ := rfl
@[simp] theorem State.drive_callers (a b : Bool) : (s.drive a b).callers = s.callers := rfl
@[simp] theorem State.drive_now (a b : Bool) : (s.drive a b).now = s.now := rfl
@[simp] theorem State.drive_par (a b : Bool) : (s.drive a b).par = s.par := rfl
@[simp] theorem State.drive_rxDraws (a b : Bool) : (s.drive a b).rxDraws = s.rxDraws := rfl
@[simp] theorem State.drive_txDraws (a b : Bool) : (s.drive a b).txDraws = s.txDraws := rfl
@[simp] theorem State.drive_inputs (a b : Bool) : (s.drive a b).inputs = s.inputs := rfl

/-! ### release -/

@[simp] theorem State.release_rx : (s.release).rx = s.rx := rfl
@[simp] theorem State.release_tx : (s.release).tx = s.tx := rfl
@[simp] theorem State.release_lines : (s.release).lines = ⟨true, true⟩ := rfl
@[simp] theorem State.release_callers : (s.release).callers = s.callers := rfl
@[simp] theorem State.release_now : (s.release).now = s.now := rfl
@[simp] theorem State.release_par : (s.release).par = s.par := rfl
@[simp] theorem State.release_rxDraws : (s.release).rxDraws = s.rxDraws := rfl
@[simp] theorem State.release_txDraws : (s.release).txDraws = s.txDraws := rfl
@[simp] theorem State.release_inputs : (s.release).inputs = s.inputs := rfl

/-! ### withFetchWord -/

@[simp] theorem State.withFetchWord_rx (nbits w : Nat) : (s.withFetchWord nbits w).rx = s.rx := rfl
@[simp] theorem State.withFetchWord_tx (nbits w : Nat) : (s.withFetchWord nbits w).tx = s.tx := rfl
@[simp] theorem State.withFetchWord_lines (nbits w : Nat) : (s.withFetchWord nbits w).lines = s.lines := rfl
@[simp] theorem State.withFetchWord_callers (nbits w : Nat) : (s.withFetchWord nbits w).callers = s.callers := rfl
@[simp] theorem State.withFetchWord_now (nbits w : Nat) : (s.withFetchWord nbits w).now = s.now := rfl
@[simp] theorem State.withFetchWord_par (nbits w : Nat) : (s.withFetchWord nbits w).par = s.par := rfl
@[simp] theorem State.withFetchWord_rxDraws (nbits w : Nat) : (s.withFetchWord nbits w).rxDraws = s.rxDraws := rfl
@[simp] theorem State.withFetchWord_txDraws (nbits w : Nat) : (s.withFetchWord nbits w).txDraws = s.txDraws := rfl
@[simp] theorem State.withFetchWord_inputs (nbits w : Nat) : (s.withFetchWord nbits w).inputs = tableInput nbits w :: s.inputs := rfl

/-! ### The timer record -/

@[simp] theorem Timer.cancel_armed (T : Timer) : T.cancel.armed = false := rfl
@[simp] theorem Timer.cancel_due (T : Timer) : T.cancel.due = T.due := rfl

/-! ### The latency of a state whose parameters and draws are those of another -/

theorem State.latency_congr {s t : State} (T : TimerId) (hp : t.par = s.par) (hr : t.rxDraws = s.rxDraws)
    (ht : t.txDraws = s.txDraws) : t.latency T = s.latency T := by
  cases T <;> simp [State.latency, hp, hr, ht]

end Sys2Proof.Machine
end

