-- ==== Sys2Proof/Laws/Ops.lean ====
section
/-! SUPPORT. One lemma per shared operation: everything it can do when it answers a next state, and when it does. -/

namespace Sys2Proof.Machine

variable {s t : State} {c d : CallerId} {r : Result} {o : StepOutcome}

/-! ## Outcomes -/

@[simp] theorem raise_eq (st : Status) : raise c st s = .next (s.finish c (.bare st)) := rfl
@[simp] theorem reply_eq : reply c r s = .next (s.finish c r) := rfl
@[simp] theorem replyOk_eq : replyOk c s = .next (s.finish c (.bare .ok)) := rfl
@[simp] theorem bare_eq (st : Status) : Result.bare st = ⟨st, 0, 0, 0, []⟩ := rfl

/-! ## Who may issue a command -/

theorem isReady_iff : s.isReady c = true ↔ ∃ q, s.callers[c]? = some ⟨.ready, q⟩ := by
  unfold State.isReady
  rcases h : s.callers[c]? with _ | ⟨w, q⟩
  · simp
  · simp

theorem isReady_lt (h : s.isReady c = true) : c < s.callers.length := by
  obtain ⟨q, hq⟩ := isReady_iff.1 h
  exact (List.getElem?_eq_some_iff.1 hq).1

/-- A Ready caller's command runs. -/
theorem issue_of_ready (h : s.isReady c = true) : issue c s o = o := by
  obtain ⟨q, hq⟩ := isReady_iff.1 h
  simp [issue, hq]

/-- A command runs for a Ready caller only. -/
theorem issue_next : issue c s o = .next t ↔ s.isReady c = true ∧ o = .next t := by
  unfold issue State.isReady
  rcases h : s.callers[c]? with _ | ⟨w, q⟩
  · simp
  · by_cases hw : w = .ready <;> simp [hw]

theorem requireSession_next {b : Bool} : requireSession b o = .next t ↔ b = true ∧ o = .next t := by
  cases b <;> simp [requireSession]

theorem whenEnabled_next {p : Bool} : whenEnabled p o = .next t ↔ p = true ∧ o = .next t := by
  cases p <;> simp [whenEnabled]

theorem ofCaller_next {k : CallerState → StepOutcome} :
    ofCaller c s k = .next t ↔ ∃ x, s.callers[c]? = some x ∧ k x.state = .next t := by
  unfold ofCaller
  rcases s.callers[c]? with _ | x <;> simp

/-- What a SET command can do (R207): refuse the value, refuse while busy, or write the setting. -/
theorem setting_next {busy : Bool} {set : Option State} : setting c busy set s = .next t ↔
    s.isReady c = true ∧
      ((set = none ∧ t = s.finish c (.bare .invalidArgument)) ∨
       (∃ u, set = some u ∧ busy = true ∧ t = s.finish c (.bare .busy)) ∨
       (∃ u, set = some u ∧ busy = false ∧ t = u.finish c (.bare .ok))) := by
  unfold setting
  rw [issue_next]
  refine and_congr_right fun _ => ?_
  rcases set with _ | u
  · simp [eq_comm]
  · cases busy <;> simp [eq_comm]

/-- What a write can do once its session and its size are in order (R171 to R175). -/
theorem transmit_next {nb : Bool} {V : Word} {n : Nat} : transmit c nb V n s = .next t ↔
    (nb = true ∧ t = s.finish c (.bare .wouldBlock)) ∨
    (nb = false ∧ s.tx.active = true ∧ t = s.finish c (.bare .busy)) ∨
    (nb = false ∧ s.tx.active = false ∧ t = waitWriter c n (start V s.serveDone)) := by
  unfold transmit
  cases nb <;> cases s.tx.active <;> simp [eq_comm]

/-! ## The callers after an answer, a wait, a release -/

/-- The answer to c, from any state whose callers are those of s. -/
theorem finish_answers {u : State} (hu : u.callers = s.callers) (h : c < s.callers.length) :
    Answers c r s (u.finish c r) where
  told := by simp [hu, h]
  others := fun d hd => by simp [hu, List.getElem?_set_ne (Ne.symm hd)]
  length := by simp [hu]

/-- The wait of c, from any state whose callers are those of s. -/
theorem suspend_waits {u : State} {w : CallerState} (hu : u.callers = s.callers) (h : c < s.callers.length) :
    Waits c w s (u.suspend c w) where
  waiting := by simp [hu, h]
  others := fun d hd => by simp [hu, List.getElem?_set_ne (Ne.symm hd)]
  length := by simp [hu]

theorem interrupt_releases {u : State} (p : CallerState → Bool) (hu : u.callers = s.callers) :
    Releases p none s (u.interrupt p) where
  released := fun d x _ hx hp => by simp [hu, hx, Caller.interruptIf, hp]
  others := fun d x _ hx hp => by simp [hu, hx, Caller.interruptIf, hp]
  length := by simp [hu]

/-- A release followed by the answer to c. -/
theorem interrupt_finish_releases {u : State} (p : CallerState → Bool) (hu : u.callers = s.callers) :
    Releases p (some c) s ((u.interrupt p).finish c r) where
  released := fun d x hd hx hp => by
    have : c ≠ d := fun h => hd (by rw [h])
    simp [hu, List.getElem?_set_ne this, hx, Caller.interruptIf, hp]
  others := fun d x hd hx hp => by
    have : c ≠ d := fun h => hd (by rw [h])
    simp [hu, List.getElem?_set_ne this, hx, Caller.interruptIf, hp]
  length := by simp [hu]

/-- Every caller's position after an interrupt is one it had before, or Ready. -/
theorem interruptIf_state (p : CallerState → Bool) (x : Caller) :
    (Caller.interruptIf p x).state = x.state ∨ (Caller.interruptIf p x).state = .ready := by
  unfold Caller.interruptIf
  split <;> simp

/-! ## The timer primitive -/

/-- R240: a latency lies in 0..T_LAT. -/
theorem latency_le (T : TimerId) (s : State) : s.latency T ≤ s.par.tLat := by
  unfold State.latency
  split
  · exact Nat.zero_le _
  · exact Nat.le_of_lt_succ (Nat.mod_lt _ (Nat.succ_pos _))

/-- With T_LAT = 0 a firing is exact. -/
theorem latency_zero (T : TimerId) (h : s.par.tLat = 0) : s.latency T = 0 := by simp [State.latency, h]

theorem firesAt_iff {T : Timer} {n : Nat} : T.firesAt n = true ↔ T.armed = true ∧ n = T.due := by
  simp [Timer.firesAt]

theorem allows_iff {T : Timer} {n : Nat} : T.allows n = true ↔ (T.armed = true → n ≤ T.due) := by
  unfold Timer.allows
  cases T.armed <;> simp

/-- When a time step is allowed (R14, R15). -/
theorem timeAllowed_iff {n : Nat} : s.timeAllowed n = true ↔
    s.now < n ∧ (s.rx.timer.armed = true → n ≤ s.rx.timer.due) ∧ (s.tx.timer.armed = true → n ≤ s.tx.timer.due) ∧
      ∀ x ∈ s.callers, ∀ d k, x.state = .waitingWrite d k → n ≤ d := by
  have key : ∀ x : Caller, Caller.allows n x = true ↔ ∀ d k, x.state = .waitingWrite d k → n ≤ d := by
    intro x
    unfold Caller.allows
    rcases x.state with _ | _ | ⟨d, k⟩
    · simp
    · simp
    · simp only [decide_eq_true_eq, CallerState.waitingWrite.injEq]
      exact ⟨fun h _ _ e => e.1 ▸ h, fun h => h d k ⟨rfl, rfl⟩⟩
  simp only [State.timeAllowed, Bool.and_eq_true, decide_eq_true_eq, allows_iff, List.all_eq_true, key, and_assoc]

end Sys2Proof.Machine
end

