-- ==== Sys2Proof/Laws/Decoder.lean ====
section
/-! SUPPORT. What the decoder's handlers do, said once: which branch an edge takes, what a reader takes, and that nothing
outside the decoder moves. -/

namespace Sys2Proof.Machine

variable {s t : State} {c : CallerId} {l : Bool}

/-- The branch of R121 an edge takes. -/
theorem edge_closed (h : s.rx.opened = false) : edge l s = s := by simp [edge, h]

theorem edge_first (h : s.rx.opened = true) (hc : s.rx.count = -1) : edge l s = firstEdge l s := by
  simp [edge, h, hc, Rx.midFrame, idleCount]

theorem edge_glitch (h : s.rx.opened = true) (hc : s.rx.count ≠ -1) (hg : s.now - s.rx.last < s.rx.pw.toNat) :
    edge l s = s := by
  simp [edge, h, hc, Rx.midFrame, idleCount, Rx.isGlitch, Rx.since, hg]

theorem edge_gap (h : s.rx.opened = true) (hc : s.rx.count ≠ -1)
    (hg : s.rx.pw.toNat + 3 * (s.rx.pw.toNat + s.rx.pi.toNat) < s.now - s.rx.last) :
    edge l s = longGapReset s := by
  have h1 : ¬ s.now - s.rx.last < s.rx.pw.toNat := by omega
  simp [edge, h, hc, Rx.midFrame, idleCount, Rx.isGlitch, Rx.isLongGap, Rx.longGap, Rx.period, Rx.since, hg, h1]

theorem edge_later (h : s.rx.opened = true) (hc : s.rx.count ≠ -1) (hg : s.rx.pw.toNat ≤ s.now - s.rx.last)
    (hl : s.now - s.rx.last ≤ s.rx.pw.toNat + 3 * (s.rx.pw.toNat + s.rx.pi.toNat)) :
    edge l s = laterEdge l s := by
  have h1 : ¬ s.now - s.rx.last < s.rx.pw.toNat := by omega
  have h2 : ¬ s.rx.pw.toNat + 3 * (s.rx.pw.toNat + s.rx.pi.toNat) < s.now - s.rx.last := by omega
  simp [edge, h, hc, Rx.midFrame, idleCount, Rx.isGlitch, Rx.isLongGap, Rx.longGap, Rx.period, Rx.since, h1, h2]

/-- Everything an edge can do. -/
theorem edge_cases (l : Bool) (s : State) :
    edge l s = s ∨ (s.rx.count = -1 ∧ edge l s = firstEdge l s) ∨ (s.rx.count ≠ -1 ∧ edge l s = longGapReset s) ∨
      (s.rx.count ≠ -1 ∧ edge l s = laterEdge l s) := by
  by_cases hc : s.rx.count = -1 <;>
    by_cases hg : s.rx.isGlitch s.now = true <;> by_cases hl : s.rx.isLongGap s.now = true <;>
      by_cases h : s.rx.opened = true <;> simp [edge, Rx.midFrame, idleCount, h, hc, hg, hl]

/-- An edge touches the decoder and its draws only. -/
theorem edge_frame (l : Bool) (s : State) : OnlyRx s (edge l s) ∧ (edge l s).callers = s.callers := by
  rcases edge_cases l s with h | ⟨_, h⟩ | ⟨_, h⟩ | ⟨_, h⟩ <;> rw [h]
  all_goals exact ⟨⟨rfl, rfl, rfl, rfl, rfl, rfl⟩, rfl⟩

/-- An edge reads the decoder, its draws, the time and the parameters only: from any state that agrees on them it gives
the same decoder (R86). -/
theorem edge_congr {u : State} (l : Bool) (hr : u.rx = s.rx) (hd : u.rxDraws = s.rxDraws) (hn : u.now = s.now)
    (hp : u.par = s.par) : edge l u = { u with rx := (edge l s).rx, rxDraws := (edge l s).rxDraws } := by
  obtain ⟨rx, tx, lines, callers, now, par, rd, td, inputs⟩ := s
  obtain ⟨rx', tx', lines', callers', now', par', rd', td', inputs'⟩ := u
  simp only at hr hd hn hp
  subst hr hd hn hp
  simp only [edge]
  split_ifs <;> rfl

theorem exec_edgeOf (l : Bool) (s : State) : exec (edgeOf l) s = .next (edge l s) := by
  cases l <;> rfl

/-- Shift-in on numbers (R127). -/
theorem shift_toNat (x : DWord) (l : Bool) :
    ((x <<< 1) ||| (BitVec.ofBool l).setWidth 64) = BitVec.ofNat 64 (2 * x.toNat + l.toNat) := by
  have h2 : 2 * x.toNat + l.toNat = Nat.bit l x.toNat := by simp [Nat.bit_val]
  apply BitVec.eq_of_getLsbD_eq
  intro i hi
  rw [h2, BitVec.getLsbD_ofNat, BitVec.getLsbD_or, BitVec.getLsbD_shiftLeft]
  rcases i with _ | i
  · cases l <;> simp
  · rw [Nat.testBit_bit_succ, show x.toNat.testBit i = x.getLsbD i from rfl]
    cases l <;> simp [hi]

/-- R127: the accumulator and the counter after an edge is shifted in. -/
theorem shiftIn_eq (l : Bool) (r : Rx) :
    r.shiftIn l = { r with sr := BitVec.ofNat 64 (2 * r.sr.toNat + l.toNat), count := min (r.count + 1) 127 } := by
  simp [Rx.shiftIn, shift_toNat, Config.cntSat]

/-- R128: the two outcomes of the deadline. -/
theorem timeout_complete {r : Rx} (h : r.count = r.len.bits - 1) :
    r.timeout = { r with timer := r.timer.cancel, frame := r.sr, err := false, count := -1, sr := 0 } := by
  simp [Rx.timeout, Rx.complete, h, idleCount]

theorem timeout_error {r : Rx} (h : r.count ≠ r.len.bits - 1) :
    r.timeout = { r with timer := r.timer.cancel, err := true, count := -1, sr := 0 } := by
  simp [Rx.timeout, Rx.complete, h, idleCount]

/-- What a reader takes (R130, R131). -/
theorem takeFrame_frame (h : s.rx.frame ≠ 0) :
    takeFrame c s = ({ s with rx := { s.rx with frame := 0 } }).finish c (readResult s.rx.frame) := by
  rw [takeFrame, if_pos (by simpa [Rx.unread] using h)]

theorem takeFrame_empty (h : s.rx.frame = 0) :
    takeFrame c s = ({ s with rx := { s.rx with err := false } }).finish c (readResult 0) := by
  simp [takeFrame, Rx.unread, h]

theorem takeFrame_cases (c : CallerId) (s : State) :
    ∃ r f e, takeFrame c s = ({ s with rx := { s.rx with frame := f, err := e } }).finish c r ∧
      (f = s.rx.frame ∨ f = 0) := by
  by_cases h : s.rx.frame = 0
  · exact ⟨_, s.rx.frame, false, by rw [takeFrame_empty h], .inl rfl⟩
  · exact ⟨_, 0, s.rx.err, by rw [takeFrame_frame h], .inr rfl⟩

theorem readable_iff {r : Rx} : r.readable = true ↔ r.frame ≠ 0 ∨ r.err = true := by
  simp [Rx.readable, Rx.unread]

end Sys2Proof.Machine
end

