-- ==== Sys2Proof/Laws/Encoder.lean ====
section
/-! SUPPORT. What the encoder's operations do, said once: each as one record of the state, and that nothing of the
decoder moves. -/

namespace Sys2Proof.Machine

variable {s t : State} {c : CallerId}

/-- R174 as one record. -/
theorem start_eq (V : Word) (s : State) : start V s =
    { s with
      tx := { s.tx with w0 := (payload s.tx.len V).1, w1 := (payload s.tx.len V).2, llen := s.tx.len, pos := 0,
                        phase := .assertPulse, active := true, done := false,
                        timer := ⟨true, s.now + 0 + s.latency .tx⟩ }
      lines := ⟨true, true⟩, txDraws := s.txDraws + 1 } := rfl

/-- What the outstanding completions do to a caller (R183). -/
theorem serveIf_writer {x : Caller} {w n : Nat} (h : x.state = .waitingWrite w n) :
    Caller.serveIf true x = ⟨.ready, some (writeResult n)⟩ := by simp [Caller.serveIf, h]

theorem serveIf_other {x : Caller} {done : Bool} (h : done = false ∨ ∀ w n, x.state ≠ .waitingWrite w n) :
    Caller.serveIf done x = x := by
  unfold Caller.serveIf
  split
  · rename_i w n hw
    rcases h with h | h
    · simp [h]
    · exact absurd hw (h w n)
  · rfl

/-- A caller that waits in a write after them did so before, and its transmission is not done. -/
theorem serveIf_waits {x : Caller} {done : Bool} {w n : Nat} (h : (Caller.serveIf done x).state = .waitingWrite w n) :
    done = false ∧ x.state = .waitingWrite w n := by
  unfold Caller.serveIf at h
  split at h
  · rename_i hw
    cases done
    · exact ⟨rfl, h⟩
    · cases h
  · rename_i hw
    exact absurd h (hw w n)

/-- The outstanding completions and then the wait of c (R183, R175), from any state whose callers are those served. -/
theorem suspend_serves {u : State} {w : CallerState} (hu : u.callers = s.serveDone.callers) :
    Serves c s (u.suspend c w) where
  served := fun d x _ _ hd hx hw hdone => by
    simp [hu, List.getElem?_set_ne (Ne.symm hd), hx, hdone, serveIf_writer hw, writeResult]
  others := fun d x hd hx ho => by
    simp [hu, List.getElem?_set_ne (Ne.symm hd), hx, serveIf_other ho]
  length := by simp [hu]

/-- R179 as one record. -/
theorem completeTx_eq (s : State) : completeTx s =
    { s with tx := { s.tx with timer := ⟨false, s.tx.timer.due⟩, active := false, done := true } } := rfl

/-- R180 as one record. -/
theorem assertBit_eq (s : State) : assertBit s =
    { s with
      tx := { s.tx with pos := s.tx.pos + 1, phase := .gap,
                        timer := ⟨true, s.now + s.tx.pw.toNat + s.latency .tx⟩ }
      lines := (if txBit s.tx.w0 s.tx.w1 s.tx.pos then ⟨s.lines.d0, false⟩ else ⟨false, s.lines.d1⟩)
      txDraws := s.txDraws + 1 } := by
  unfold assertBit
  cases txBit s.tx.w0 s.tx.w1 s.tx.pos <;> rfl

/-- R181 as one record. -/
theorem gapBit_eq (s : State) : gapBit s =
    { s with
      tx := { s.tx with phase := .assertPulse, timer := ⟨true, s.now + s.tx.pi.toNat + s.latency .tx⟩ }
      lines := ⟨true, true⟩, txDraws := s.txDraws + 1 } := rfl

/-- R184 as one record. -/
theorem abort_eq (s : State) : abort s =
    { s with
      tx := { s.tx with timer := ⟨false, s.tx.timer.due⟩, active := false, done := false, phase := .assertPulse }
      lines := ⟨true, true⟩ } := rfl

/-- R203 as one record. -/
theorem openTx_eq (s : State) : openTx s =
    { s with
      tx := { s.tx with opened := true, timer := ⟨false, s.tx.timer.due⟩, active := false, done := false,
                        phase := .assertPulse, pos := 0 }
      lines := ⟨true, true⟩ } := rfl

/-- The branch of R178 a firing takes. -/
theorem pulse_complete (hp : s.tx.phase = .assertPulse) (h : s.tx.pos = s.tx.llen.bits) :
    pulse s = completeTx s := by simp [pulse, hp, Tx.finished, h]

theorem pulse_assert (hp : s.tx.phase = .assertPulse) (h : s.tx.pos ≠ s.tx.llen.bits) :
    pulse s = assertBit s := by simp [pulse, hp, Tx.finished, h]

theorem pulse_gap (hp : s.tx.phase = .gap) : pulse s = gapBit s := by simp [pulse, hp]

/-- Everything a firing can do. -/
theorem pulse_cases (s : State) :
    (s.tx.phase = .assertPulse ∧ s.tx.pos = s.tx.llen.bits ∧ pulse s = completeTx s) ∨
    (s.tx.phase = .assertPulse ∧ s.tx.pos ≠ s.tx.llen.bits ∧ pulse s = assertBit s) ∨
    (s.tx.phase = .gap ∧ pulse s = gapBit s) := by
  rcases hp : s.tx.phase with _ | _
  · by_cases h : s.tx.pos = s.tx.llen.bits
    · exact .inl ⟨rfl, h, pulse_complete hp h⟩
    · exact .inr (.inl ⟨rfl, h, pulse_assert hp h⟩)
  · exact .inr (.inr ⟨rfl, pulse_gap hp⟩)

/-- A firing touches the encoder, its draws and the lines only. -/
theorem pulse_frame (s : State) : OnlyTx s (pulse s) ∧ (pulse s).callers = s.callers := by
  rcases pulse_cases s with ⟨_, _, h⟩ | ⟨_, _, h⟩ | ⟨_, h⟩ <;> rw [h]
  all_goals exact ⟨⟨rfl, rfl, rfl, rfl, rfl⟩, rfl⟩

/-- A firing reads the encoder, its draws, the lines, the time and the parameters only: from any state that agrees on
them it gives the same encoder (R86). -/
theorem pulse_congr {u : State} (ht : u.tx = s.tx) (hl : u.lines = s.lines) (hd : u.txDraws = s.txDraws)
    (hn : u.now = s.now) (hp : u.par = s.par) :
    pulse u = { u with tx := (pulse s).tx, lines := (pulse s).lines, txDraws := (pulse s).txDraws } := by
  obtain ⟨rx, tx, lines, callers, now, par, rd, td, inputs⟩ := s
  obtain ⟨rx', tx', lines', callers', now', par', rd', td', inputs'⟩ := u
  simp only at ht hl hd hn hp
  subst ht hl hd hn hp
  rcases hph : tx'.phase with _ | _
  · by_cases hpos : tx'.pos = tx'.llen.bits <;> simp [pulse, hph, Tx.finished, hpos] <;> rfl
  · simp [pulse, hph]; rfl

/-- The lengths are 26 and 34. -/
theorem bits_le (n : FrameLen) : n.bits ≤ 34 := by cases n <;> decide

end Sys2Proof.Machine
end

