-- ==== Sys2Proof/Laws/Step.lean ====
section
/-! SUPPORT. What a step can do: the next input is an instruction that runs, or an illegal command that is answered. -/

namespace Sys2Proof.Machine

variable {s t : State}

/-- The inversion of step. -/
theorem step_next (h : step s = .next t) : ∃ x rest, s.inputs = x :: rest ∧
    ((∃ i, decode x = .ok i ∧ exec i { s with inputs := rest } = .next t) ∨
     (∃ e c r, decode x = .error e ∧ x = .command c r ∧ ({ s with inputs := rest } : State).isReady c = true ∧
       t = ({ s with inputs := rest } : State).finish c (.bare .invalidArgument))) := by
  unfold step at h
  rcases hi : s.inputs with _ | ⟨x, rest⟩
  · simp [hi] at h
  · refine ⟨x, rest, rfl, ?_⟩
    simp only [hi] at h
    rcases hd : decode x with e | i
    · simp only [hd] at h
      right
      rcases x with ⟨c, r⟩ | ⟨code, arg⟩
      · obtain ⟨hr, ht⟩ := issue_next.1 h
        exact ⟨e, c, r, rfl, rfl, hr, by simpa [eq_comm] using ht⟩
      · simp [rejectInput] at h
    · simp only [hd] at h
      exact .inl ⟨i, rfl, h⟩

/-- A property of states that does not look at the inputs is kept by every step, if every instruction keeps it and an
answer to a caller does: each invariant is then one case split over the instructions. -/
theorem step_keeps {P : State → Prop} (hin : ∀ s rest, P s → P { s with inputs := rest })
    (hex : ∀ s t i, P s → exec i s = .next t → P t) (hfin : ∀ s c r, P s → P (s.finish c r))
    (hs : P s) (h : step s = .next t) : P t := by
  obtain ⟨x, rest, _, ⟨i, _, hi⟩ | ⟨_, c, _, _, _, _, rfl⟩⟩ := step_next h
  · exact hex _ _ i (hin _ _ hs) hi
  · exact hfin _ _ _ (hin _ _ hs)

end Sys2Proof.Machine
end

