-- ==== Sys2Proof/Laws/Exec.lean ====
section
/-! SUPPORT. Everything an instruction can do when it answers a next state, in one list: each rule about all instructions
is then one case split over this list, and no proof unfolds a meaning again. -/

namespace Sys2Proof.Machine

/-- From s, the instruction may lead to the state named by the constructor. -/
inductive Effect (s : State) : Instr → State → Prop where
  /-- A command that ends at once and changes nothing of the block: a query, or an error. -/
  | told {i : Instr} {c : CallerId} (r : Result) (who : issuerOf i = some c) (ready : s.isReady c = true) :
      Effect s i (s.finish c r)
  | rxOpen {c : CallerId} (ready : s.isReady c = true) (closed : s.rx.opened = false) :
      Effect s (.rxOpen c) ((({ s with rx := s.rx.openSession } : State).interrupt CallerState.isReader).finish c (.bare .ok))
  | rxClose {c : CallerId} (ready : s.isReady c = true) :
      Effect s (.rxClose c) (({ s with rx := { s.rx with opened := false } } : State).finish c (.bare .ok))
  | rxTake {c : CallerId} {nb : Bool} {size : BitVec 4} (ready : s.isReady c = true) (readable : s.rx.readable = true) :
      Effect s (.rxRead c nb size) (takeFrame c s)
  | rxWait {c : CallerId} {nb : Bool} {size : BitVec 4} (ready : s.isReady c = true) (empty : s.rx.readable = false) :
      Effect s (.rxRead c nb size) (s.suspend c .waitingRead)
  | rxSetPw {c : CallerId} {a : Word} (ready : s.isReady c = true) (legal : legalTime a = true)
      (idle : s.rx.midFrame = false) :
      Effect s (.rxSetPw c a) (({ s with rx := { s.rx with pw := a } } : State).finish c (.bare .ok))
  | rxSetPi {c : CallerId} {a : Word} (ready : s.isReady c = true) (legal : legalTime a = true)
      (idle : s.rx.midFrame = false) :
      Effect s (.rxSetPi c a) (({ s with rx := { s.rx with pi := a } } : State).finish c (.bare .ok))
  | rxSetLen {c : CallerId} {a : Word} {n : FrameLen} (ready : s.isReady c = true) (legal : lenOf a = some n)
      (idle : s.rx.midFrame = false) :
      Effect s (.rxSetLen c a) (({ s with rx := { s.rx with len := n } } : State).finish c (.bare .ok))
  | txOpen {c : CallerId} (ready : s.isReady c = true) (closed : s.tx.opened = false) :
      Effect s (.txOpen c) (((openTx s).interrupt CallerState.isWriter).finish c (.bare .ok))
  | txClose {c : CallerId} (ready : s.isReady c = true) :
      Effect s (.txClose c) (({ s with tx := { s.tx with opened := false } } : State).finish c (.bare .ok))
  | txWrite {c : CallerId} {nb : Bool} {v : Word} (ready : s.isReady c = true) (rest : s.tx.active = false) :
      Effect s (.txWrite c nb v) (waitWriter c 4 (start v s.serveDone))
  | txWriteBuf {c : CallerId} {nb : Bool} {size : BitVec 4} {buf : List Byte} (v : Word) (ready : s.isReady c = true)
      (rest : s.tx.active = false) :
      Effect s (.txWriteBuf c nb size buf) (waitWriter c size.toNat (start v s.serveDone))
  | txSetPw {c : CallerId} {a : Word} (ready : s.isReady c = true) (legal : legalTime a = true)
      (rest : s.tx.active = false) :
      Effect s (.txSetPw c a) (({ s with tx := { s.tx with pw := a } } : State).finish c (.bare .ok))
  | txSetPi {c : CallerId} {a : Word} (ready : s.isReady c = true) (legal : legalTime a = true)
      (rest : s.tx.active = false) :
      Effect s (.txSetPi c a) (({ s with tx := { s.tx with pi := a } } : State).finish c (.bare .ok))
  | txSetLen {c : CallerId} {a : Word} {n : FrameLen} (ready : s.isReady c = true) (legal : lenOf a = some n)
      (rest : s.tx.active = false) :
      Effect s (.txSetLen c a) (({ s with tx := { s.tx with len := n } } : State).finish c (.bare .ok))
  | evEdge (l : Bool) : Effect s (edgeOf l) (edge l s)
  | evRxTimer (fires : s.rx.timer.firesAt s.now = true) : Effect s .evRxTimer { s with rx := s.rx.timeout }
  | evTxTimer (fires : s.tx.timer.firesAt s.now = true) : Effect s .evTxTimer (pulse s)
  | evCancel {c : CallerId} {x : Caller} (who : s.callers[c]? = some x) (waits : x.state.isWaiting = true) :
      Effect s (.evCancel c) (s.finish c (.bare .interrupted))
  | evWakeRead {c : CallerId} {x : Caller} (who : s.callers[c]? = some x) (waits : x.state.isReader = true)
      (readable : s.rx.readable = true) : Effect s (.evWakeRead c) (takeFrame c s)
  | wakeDone {c : CallerId} {x : Caller} {d n : Nat} (who : s.callers[c]? = some x) (waits : x.state = .waitingWrite d n)
      (done : s.tx.done = true) : Effect s (.evWakeWrite c) (s.finish c (writeResult n))
  | wakeTimeout {c : CallerId} {x : Caller} {d n : Nat} (who : s.callers[c]? = some x)
      (waits : x.state = .waitingWrite d n) (late : d ≤ s.now) (notDone : s.tx.done = false) :
      Effect s (.evWakeWrite c) ((abort s).finish c (.bare .timeout))
  | evReset : Effect s .evReset
      (({ s with rx := Rx.reset, tx := Tx.reset, lines := Lines.reset } : State).interrupt CallerState.isWaiting)
  | evTime {n : Nat} (allowed : s.timeAllowed n = true) : Effect s (.evTime n) { s with now := n }

/-- The inversion of exec. -/
theorem exec_effect {s t : State} {i : Instr} (h : exec i s = .next t) : Effect s i t := by
  cases i <;> simp only [exec] at h
  case rxOpen c =>
    obtain ⟨hc, h⟩ := issue_next.1 h
    split at h
    · cases h; exact .told _ rfl hc
    · rename_i ho; cases h; exact .rxOpen hc (by simpa using ho)
  case rxClose c => obtain ⟨hc, h⟩ := issue_next.1 h; cases h; exact .rxClose hc
  case rxRead c nb size =>
    obtain ⟨hc, h⟩ := issue_next.1 h
    obtain ⟨_, h⟩ := requireSession_next.1 h
    split at h
    · cases h; exact .told _ rfl hc
    · split at h
      · rename_i hr; cases h; exact .rxTake hc hr
      · rename_i hr
        split at h
        · cases h; exact .told _ rfl hc
        · cases h; exact .rxWait hc (by simpa using hr)
  case rxPoll c =>
    obtain ⟨hc, h⟩ := issue_next.1 h
    obtain ⟨_, h⟩ := requireSession_next.1 h
    cases h; exact .told _ rfl hc
  case rxStatus c =>
    obtain ⟨hc, h⟩ := issue_next.1 h
    obtain ⟨_, h⟩ := requireSession_next.1 h
    cases h; exact .told _ rfl hc
  case rxStrip c a b => obtain ⟨hc, h⟩ := issue_next.1 h; cases h; exact .told _ rfl hc
  case rxSetPw c a =>
    obtain ⟨hc, ⟨_, rfl⟩ | ⟨u, _, _, rfl⟩ | ⟨u, hu, hb, rfl⟩⟩ := setting_next.1 h
    · exact .told _ rfl hc
    · exact .told _ rfl hc
    · split at hu <;> cases hu; exact .rxSetPw hc ‹_› hb
  case rxSetPi c a =>
    obtain ⟨hc, ⟨_, rfl⟩ | ⟨u, _, _, rfl⟩ | ⟨u, hu, hb, rfl⟩⟩ := setting_next.1 h
    · exact .told _ rfl hc
    · exact .told _ rfl hc
    · split at hu <;> cases hu; exact .rxSetPi hc ‹_› hb
  case rxSetLen c a =>
    obtain ⟨hc, ⟨_, rfl⟩ | ⟨u, _, _, rfl⟩ | ⟨u, hu, hb, rfl⟩⟩ := setting_next.1 h
    · exact .told _ rfl hc
    · exact .told _ rfl hc
    · obtain ⟨n, hn, rfl⟩ := Option.map_eq_some_iff.1 hu; exact .rxSetLen hc hn hb
  case txOpen c =>
    obtain ⟨hc, h⟩ := issue_next.1 h
    split at h
    · cases h; exact .told _ rfl hc
    · rename_i ho; cases h; exact .txOpen hc (by simpa using ho)
  case txClose c => obtain ⟨hc, h⟩ := issue_next.1 h; cases h; exact .txClose hc
  case txWrite c nb v =>
    obtain ⟨hc, h⟩ := issue_next.1 h
    obtain ⟨_, h⟩ := requireSession_next.1 h
    obtain ⟨_, rfl⟩ | ⟨_, _, rfl⟩ | ⟨_, ha, rfl⟩ := transmit_next.1 h
    · exact .told _ rfl hc
    · exact .told _ rfl hc
    · exact .txWrite hc ha
  case txWriteBuf c nb size buf =>
    obtain ⟨hc, h⟩ := issue_next.1 h
    obtain ⟨_, h⟩ := requireSession_next.1 h
    split at h
    · cases h; exact .told _ rfl hc
    · split at h
      · cases h
      · obtain ⟨_, rfl⟩ | ⟨_, _, rfl⟩ | ⟨_, ha, rfl⟩ := transmit_next.1 h
        · exact .told _ rfl hc
        · exact .told _ rfl hc
        · exact .txWriteBuf _ hc ha
  case txSetPw c a =>
    obtain ⟨hc, ⟨_, rfl⟩ | ⟨u, _, _, rfl⟩ | ⟨u, hu, hb, rfl⟩⟩ := setting_next.1 h
    · exact .told _ rfl hc
    · exact .told _ rfl hc
    · split at hu <;> cases hu; exact .txSetPw hc ‹_› hb
  case txSetPi c a =>
    obtain ⟨hc, ⟨_, rfl⟩ | ⟨u, _, _, rfl⟩ | ⟨u, hu, hb, rfl⟩⟩ := setting_next.1 h
    · exact .told _ rfl hc
    · exact .told _ rfl hc
    · split at hu <;> cases hu; exact .txSetPi hc ‹_› hb
  case txSetLen c a =>
    obtain ⟨hc, ⟨_, rfl⟩ | ⟨u, _, _, rfl⟩ | ⟨u, hu, hb, rfl⟩⟩ := setting_next.1 h
    · exact .told _ rfl hc
    · exact .told _ rfl hc
    · obtain ⟨n, hn, rfl⟩ := Option.map_eq_some_iff.1 hu; exact .txSetLen hc hn hb
  case evEdge0 => cases h; exact .evEdge false
  case evEdge1 => cases h; exact .evEdge true
  case evRxTimer => obtain ⟨hf, h⟩ := whenEnabled_next.1 h; cases h; exact .evRxTimer hf
  case evTxTimer => obtain ⟨hf, h⟩ := whenEnabled_next.1 h; cases h; exact .evTxTimer hf
  case evCancel c =>
    obtain ⟨x, hx, h⟩ := ofCaller_next.1 h
    obtain ⟨hw, h⟩ := whenEnabled_next.1 h
    cases h; exact .evCancel hx hw
  case evWakeRead c =>
    obtain ⟨x, hx, h⟩ := ofCaller_next.1 h
    obtain ⟨hw, h⟩ := whenEnabled_next.1 h
    rw [Bool.and_eq_true] at hw
    cases h; exact .evWakeRead hx hw.1 hw.2
  case evWakeWrite c =>
    obtain ⟨x, hx, h⟩ := ofCaller_next.1 h
    split at h
    · rename_i d n hw
      obtain ⟨ho, h⟩ := whenEnabled_next.1 h
      split at h
      · cases h; exact .wakeDone hx hw ‹_›
      · rename_i hd
        have hd : s.tx.done = false := by simpa using hd
        cases h; exact .wakeTimeout hx hw (by simpa [State.writeOver, hd] using ho) hd
    · cases h
  case evReset => cases h; exact .evReset
  case evTime n => obtain ⟨ha, h⟩ := whenEnabled_next.1 h; cases h; exact .evTime ha

end Sys2Proof.Machine
end

