-- ==== Sys2Proof/Laws/PerInstr.lean ====
section
/-! SUPPORT. One statement per instruction: the word or event code the encoder gives it matches its row of
spec/opcode_table.json. -/

namespace Sys2Proof.Laws.EncodesItsRow

/-- The encoded number under the row's mask is the row's match. -/
def Statement (i : Instr) : Prop := (encode i).number &&& (rowOf i).2 = (rowOf i).1

theorem rxOpen (c : CallerId) : Statement (.rxOpen c) := by
  simp only [Statement, encode, cmdInput, Input.number, rowOf]; decide
theorem rxClose (c : CallerId) : Statement (.rxClose c) := by
  simp only [Statement, encode, cmdInput, Input.number, rowOf]; decide
theorem rxRead (c : CallerId) (nb : Bool) (size : BitVec 4) : Statement (.rxRead c nb size) := by
  simp only [Statement, encode, cmdInput, Input.number, rowOf]
  revert nb size; decide
theorem rxPoll (c : CallerId) : Statement (.rxPoll c) := by
  simp only [Statement, encode, cmdInput, Input.number, rowOf]; decide
theorem rxStatus (c : CallerId) : Statement (.rxStatus c) := by
  simp only [Statement, encode, cmdInput, Input.number, rowOf]; decide
theorem rxStrip (c : CallerId) (a b : Word) : Statement (.rxStrip c a b) := by
  simp only [Statement, encode, cmdInput, Input.number, rowOf]; decide
theorem rxSetPw (c : CallerId) (a : Word) : Statement (.rxSetPw c a) := by
  simp only [Statement, encode, cmdInput, Input.number, rowOf]; decide
theorem rxSetPi (c : CallerId) (a : Word) : Statement (.rxSetPi c a) := by
  simp only [Statement, encode, cmdInput, Input.number, rowOf]; decide
theorem rxSetLen (c : CallerId) (a : Word) : Statement (.rxSetLen c a) := by
  simp only [Statement, encode, cmdInput, Input.number, rowOf]; decide
theorem txOpen (c : CallerId) : Statement (.txOpen c) := by
  simp only [Statement, encode, cmdInput, Input.number, rowOf]; decide
theorem txClose (c : CallerId) : Statement (.txClose c) := by
  simp only [Statement, encode, cmdInput, Input.number, rowOf]; decide
theorem txWrite (c : CallerId) (nb : Bool) (v : Word) : Statement (.txWrite c nb v) := by
  simp only [Statement, encode, cmdInput, Input.number, rowOf]
  revert nb; decide
theorem txWriteBuf (c : CallerId) (nb : Bool) (size : BitVec 4) (buf : List Byte) :
    Statement (.txWriteBuf c nb size buf) := by
  simp only [Statement, encode, Input.number, rowOf]
  revert nb size; decide
theorem txSetPw (c : CallerId) (a : Word) : Statement (.txSetPw c a) := by
  simp only [Statement, encode, cmdInput, Input.number, rowOf]; decide
theorem txSetPi (c : CallerId) (a : Word) : Statement (.txSetPi c a) := by
  simp only [Statement, encode, cmdInput, Input.number, rowOf]; decide
theorem txSetLen (c : CallerId) (a : Word) : Statement (.txSetLen c a) := by
  simp only [Statement, encode, cmdInput, Input.number, rowOf]; decide
theorem evEdge0 : Statement .evEdge0 := by
  simp only [Statement, encode, Input.number, rowOf]; decide
theorem evEdge1 : Statement .evEdge1 := by
  simp only [Statement, encode, Input.number, rowOf]; decide
theorem evRxTimer : Statement .evRxTimer := by
  simp only [Statement, encode, Input.number, rowOf]; decide
theorem evTxTimer : Statement .evTxTimer := by
  simp only [Statement, encode, Input.number, rowOf]; decide
theorem evCancel (c : CallerId) : Statement (.evCancel c) := by
  simp only [Statement, encode, Input.number, rowOf]; decide
theorem evWakeRead (c : CallerId) : Statement (.evWakeRead c) := by
  simp only [Statement, encode, Input.number, rowOf]; decide
theorem evWakeWrite (c : CallerId) : Statement (.evWakeWrite c) := by
  simp only [Statement, encode, Input.number, rowOf]; decide
theorem evReset : Statement .evReset := by
  simp only [Statement, encode, Input.number, rowOf]; decide
theorem evTime (t : Nat) : Statement (.evTime t) := by
  simp only [Statement, encode, Input.number, rowOf]; decide

end Sys2Proof.Laws.EncodesItsRow
end

