-- ==== Sys2Proof/Machine/HostText.lean ====
section
/-! DEFINITION. What the spec gives the host beside the block's steps: the textual form of a step (30_encoding R101),
the pseudo-commands (R102) and the usual errno names (60_exceptions R252). No step depends on it. -/

namespace Sys2Proof.Machine

/-- The .NB suffix of R101. -/
def nbSuffix (nb : Bool) : String := if nb then ".NB" else ""

/-- Operands separated by commas, in decimal (R101). -/
def operands : List Nat → String
  | [] => ""
  | [n] => " " ++ toString n
  | n :: ns => " " ++ toString n ++ "," ++ operands ns

/-- The textual form of a step (R101); a caller operand of an event is written c and its number. -/
def text : Instr → String
  | .rxOpen _ => "RX_OPEN"
  | .rxClose _ => "RX_CLOSE"
  | .rxRead _ nb size => "RX_READ" ++ nbSuffix nb ++ operands [size.toNat]
  | .rxPoll _ => "RX_POLL"
  | .rxStatus _ => "RX_STATUS"
  | .rxStrip _ a b => "RX_STRIP" ++ operands [a.toNat, b.toNat]
  | .rxSetPw _ a => "RX_SET_PW" ++ operands [a.toNat]
  | .rxSetPi _ a => "RX_SET_PI" ++ operands [a.toNat]
  | .rxSetLen _ a => "RX_SET_LEN" ++ operands [a.toNat]
  | .txOpen _ => "TX_OPEN"
  | .txClose _ => "TX_CLOSE"
  | .txWrite _ nb v => "TX_WRITE" ++ nbSuffix nb ++ operands [v.toNat]
  | .txWriteBuf _ nb size buf => "TX_WRITE_BUF" ++ nbSuffix nb ++ operands (size.toNat :: buf.map BitVec.toNat)
  | .txSetPw _ a => "TX_SET_PW" ++ operands [a.toNat]
  | .txSetPi _ a => "TX_SET_PI" ++ operands [a.toNat]
  | .txSetLen _ a => "TX_SET_LEN" ++ operands [a.toNat]
  | .evEdge0 => "EV_EDGE0"
  | .evEdge1 => "EV_EDGE1"
  | .evRxTimer => "EV_RX_TIMER"
  | .evTxTimer => "EV_TX_TIMER"
  | .evCancel c => "EV_CANCEL c" ++ toString c
  | .evWakeRead c => "EV_WAKE_READ c" ++ toString c
  | .evWakeWrite c => "EV_WAKE_WRITE c" ++ toString c
  | .evReset => "EV_RESET"
  | .evTime t => "EV_TIME" ++ operands [t]

/-- RX_CONFIGURE n, pw, pi (R102). -/
def rxConfigure (c : CallerId) (n pw pi : Word) : List Instr := [.rxSetLen c n, .rxSetPw c pw, .rxSetPi c pi]

/-- TX_CONFIGURE n, pw, pi (R102). -/
def txConfigure (c : CallerId) (n pw pi : Word) : List Instr := [.txSetLen c n, .txSetPw c pw, .txSetPi c pi]

/-- RX_READ_NB (R102): RX_READ.NB 8. -/
def rxReadNb (c : CallerId) : List Instr := [.rxRead c true 8]

/-- TX_SEND V (R102): TX_WRITE V with NB = 0. -/
def txSend (c : CallerId) (v : Word) : List Instr := [.txWrite c false v]

/-- The POSIX name a host would normally give a status (R252, from general knowledge, not in source). -/
def Status.errno : Status → Option String
  | .ok => none
  | .busy => some "EBUSY"
  | .wouldBlock => some "EAGAIN"
  | .interrupted => some "EINTR"
  | .timeout => some "ETIMEDOUT"
  | .invalidArgument => some "EINVAL"

end Sys2Proof.Machine
end

