-- ==== Sys2Proof/Tests/Slice0.lean ====
section
/-! SUPPORT. Tests: ill-formed terms refused, words written out from the spec's encodings, single steps whose expected
results are those of spec/95_test_vectors.md, and a witness for the hypotheses of every obligation that has some. -/

namespace Sys2Proof.Tests

open Sys2Proof Sys2Proof.Machine

/-! ## Helpers -/

/-- The next state of an outcome. -/
def nextOf : StepOutcome → Option State
  | .next t => some t
  | .fault _ => none
  | .refused _ => none

/-- The refusal of an outcome. -/
def refusalOf : StepOutcome → Option Refusal
  | .next _ => none
  | .fault _ => none
  | .refused r => some r

/-- A value read from the next state. -/
def seen {α : Type} (f : State → α) (o : StepOutcome) : Option α := (nextOf o).map f

/-- The result record caller c holds after the step. -/
def told (c : CallerId) (o : StepOutcome) : Option Result :=
  (nextOf o).bind fun t => (t.callers[c]?).bind Caller.result

/-- The reset state of an instance with two callers, T_LAT = 0 and WR_MARGIN = 1. -/
def two : State := { State.reset with callers := [Caller.reset, Caller.reset], par := ⟨0, 1⟩ }

/-- Both sessions open. -/
def live : State := { two with rx := { two.rx with opened := true }, tx := { two.tx with opened := true } }

/-- A frame and an error flag held by an open decoder. -/
def held (frame : DWord) (err : Bool) : State := { live with rx := { live.rx with frame := frame, err := err } }

/-- An open decoder in the middle of a frame: count, accumulator, last edge; deadline at 29600. -/
def mid (count : Int) (sr : DWord) (last now : Nat) : State :=
  { live with rx := { live.rx with count := count, sr := sr, last := last, timer := ⟨true, 29600⟩ }, now := now }

/-- Caller 0 waits for a frame. -/
def reading (s : State) : State := { s with callers := [⟨.waitingRead, none⟩, Caller.reset] }

/-- Caller 0 waits in the write of 0x123456 begun at 0 (95_test_vectors V-E1), with its deadline at wrDue. -/
def writing (pos : Nat) (phase : Phase) (lines : Lines) (due now wrDue : Nat) : State :=
  { live with tx := { live.tx with w0 := 0x091A2B00, pos := pos, phase := phase, active := true, timer := ⟨true, due⟩ },
              lines := lines, now := now, callers := [⟨.waitingWrite wrDue 4, none⟩, Caller.reset] }

/-- The state after the completion firing of that write. -/
def written : State :=
  { live with tx := { live.tx with w0 := 0x091A2B00, pos := 26, done := true, timer := ⟨false, 28600⟩ },
              now := 28600, callers := [⟨.waitingWrite 28601 4, none⟩, Caller.reset] }

/-! ## WellFormed -/

theorem test_wf_buffer_longer_than_size : ¬ WellFormed (.txWriteBuf 0 false 0 [1]) := by decide
theorem test_wf_buffer_of_size : WellFormed (.txWriteBuf 0 false 1 [1]) := by decide

/-! ## Words (R90, R97, R98): bits 31..0 written out; SIZE is 19:16, NB is 8, OP is 7:0 -/

theorem test_word_rxOpen : decodeTableWord 32 0b00000000000000000000000000000001 = some (.rxOpen 0) := by decide
theorem test_word_rxClose : decodeTableWord 32 0b00000000000000000000000000000010 = some (.rxClose 0) := by decide
theorem test_word_rxRead : decodeTableWord 32 0b00000000000010000000000100000011 = some (.rxRead 0 true 8) := by decide
theorem test_word_rxPoll : decodeTableWord 32 0b00000000000000000000000000000100 = some (.rxPoll 0) := by decide
theorem test_word_rxStatus : decodeTableWord 32 0b00000000000000000000000000000101 = some (.rxStatus 0) := by decide
theorem test_word_rxStrip : decodeTableWord 32 0b00000000000000000000000000000110 = some (.rxStrip 0 0 0) := by decide
theorem test_word_rxSetPw : decodeTableWord 32 0b00000000000000000000000000001000 = some (.rxSetPw 0 0) := by decide
theorem test_word_rxSetPi : decodeTableWord 32 0b00000000000000000000000000001001 = some (.rxSetPi 0 0) := by decide
theorem test_word_rxSetLen : decodeTableWord 32 0b00000000000000000000000000001010 = some (.rxSetLen 0 0) := by decide
theorem test_word_txOpen : decodeTableWord 32 0b00000000000000000000000000010001 = some (.txOpen 0) := by decide
theorem test_word_txClose : decodeTableWord 32 0b00000000000000000000000000010010 = some (.txClose 0) := by decide
theorem test_word_txWrite : decodeTableWord 32 0b00000000000000000000000100010011 = some (.txWrite 0 true 0) := by decide
theorem test_word_txWriteBuf :
    decodeTableWord 32 0b00000000000001000000000000010100 = some (.txWriteBuf 0 false 4 [0, 0, 0, 0]) := by decide
theorem test_word_txSetPw : decodeTableWord 32 0b00000000000000000000000000011000 = some (.txSetPw 0 0) := by decide
theorem test_word_txSetPi : decodeTableWord 32 0b00000000000000000000000000011001 = some (.txSetPi 0 0) := by decide
theorem test_word_txSetLen : decodeTableWord 32 0b00000000000000000000000000011010 = some (.txSetLen 0 0) := by decide
theorem test_code_evEdge0 : decodeTableWord 8 0b10000000 = some .evEdge0 := by decide
theorem test_code_evEdge1 : decodeTableWord 8 0b10000001 = some .evEdge1 := by decide
theorem test_code_evRxTimer : decodeTableWord 8 0b10001000 = some .evRxTimer := by decide
theorem test_code_evTxTimer : decodeTableWord 8 0b10010000 = some .evTxTimer := by decide
theorem test_code_evCancel : decodeTableWord 8 0b10100000 = some (.evCancel 0) := by decide
theorem test_code_evWakeRead : decodeTableWord 8 0b10100001 = some (.evWakeRead 0) := by decide
theorem test_code_evWakeWrite : decodeTableWord 8 0b10100010 = some (.evWakeWrite 0) := by decide
theorem test_code_evReset : decodeTableWord 8 0b11110000 = some .evReset := by decide
theorem test_code_evTime : decodeTableWord 8 0b11111111 = some (.evTime 0) := by decide

/-- Operands and buffer of a write: R95, R93 (only SIZE bytes are taken). -/
theorem test_word_operands :
    decode (.command 1 ⟨0x00000006, 0x2468ACF1, 2, []⟩) = .ok (.rxStrip 1 0x2468ACF1 2) ∧
    decode (.command 1 ⟨0x00040014, 7, 8, [0x78, 0x56, 0x34, 0x12, 0x99]⟩) =
      .ok (.txWriteBuf 1 false 4 [0x78, 0x56, 0x34, 0x12]) := by decide

/-- V-C1 to V-C8, V-C10 with the name of each rejection. -/
theorem test_word_illegal :
    decode (.command 0 ⟨0x00000000, 0, 0, []⟩) = .error .unlistedOp ∧
    decode (.command 0 ⟨0x00000007, 0, 0, []⟩) = .error .unlistedOp ∧
    decode (.command 0 ⟨0x00000080, 0, 0, []⟩) = .error .unlistedOp ∧
    decode (.command 0 ⟨0x00000101, 0, 0, []⟩) = .error .nbNotAllowed ∧
    decode (.command 0 ⟨0x00010001, 0, 0, []⟩) = .error .sizeNotAllowed ∧
    decode (.command 0 ⟨0x00000203, 0, 0, []⟩) = .error .reservedBits ∧
    decode (.command 0 ⟨0x00100003, 0, 0, []⟩) = .error .reservedBits ∧
    decode (.command 0 ⟨0x00040013, 0, 0, []⟩) = .error .sizeNotAllowed ∧
    decode (.command 0 ⟨0x0008010F, 0, 0, []⟩) = .error .unlistedOp ∧
    decode (.event 0x82 0) = .error .unlistedEvent := by decide

/-- R101's textual form. -/
theorem test_text : text (.rxRead 0 true 8) = "RX_READ.NB 8" ∧
    text (.txWriteBuf 0 false 4 [0x78, 0x56]) = "TX_WRITE_BUF 4, 120, 86" ∧ text (.evCancel 1) = "EV_CANCEL c1" := by decide

/-! ## Parity (V-P26, V-P34, V-P-par) -/

theorem test_par26_corner_values :
    par26 0x000000 = 0x0000001 ∧ par26 0x123456 = 0x02468AC ∧ par26 0x800000 = 0x3000001 ∧
    par26 0x001001 = 0x2002002 ∧ par26 0x7FFFFF = 0x2FFFFFF := by decide
theorem test_payload26 : payload26 0xFF123456 = (0x091A2B00, 0) := by decide
theorem test_payload34 : payload34 0x12345678 = (0x891A2B3C, 0x40000000) ∧ payload34 1 = (0, 0x80000000) ∧
    payload34 0xDEADBEEF = (0xEF56DF77, 0x80000000) := by decide
theorem test_parity_bits : evenP (0 : BitVec 12) = false ∧ oddP (0 : BitVec 12) = true ∧
    evenP (0x123 : BitVec 12) = false ∧ oddP (0x456 : BitVec 12) = false ∧ evenP (0xDEAD : BitVec 16) = true ∧
    oddP (0xBEEF : BitVec 16) = false := by decide
/-- The 26 bits of E1, first bit first. -/
theorem test_line_order : lineBits .l26 0x123456 =
    [false, false, false, false, true, false, false, true, false, false, false, true, true]
    ++ [false, true, false, false, false, true, false, true, false, true, true, false, false] := by decide

/-! ## The machine's steps -/

/-- V-C1 through step: the caller gets INVALID_ARGUMENT. -/
theorem test_step_illegal_command :
    told 1 (step { two with inputs := [.command 1 ⟨0, 0, 0, []⟩] }) = some (bareResult .invalidArgument) := by decide
/-- R98: a code off the list is no step. -/
theorem test_step_unlisted_event :
    refusalOf (step { two with inputs := [.event 0x82 0] }) = some .unlistedEvent := by decide
theorem test_step_no_input : refusalOf (step State.reset) = some .noInput := rfl
/-- The input leaves the list, the instruction runs. -/
theorem test_step_takes_the_head :
    seen (fun t => (t.inputs, t.rx.opened)) (step { two with inputs := [.command 0 ⟨1, 0, 0, []⟩, .event 0x80 0] })
      = some ([.event 0x80 0], true) := by decide
/-- The first instruction after reset. -/
theorem test_first_instruction_after_reset :
    step (State.reset.withFetchWord 32 0x00000001) = exec (.rxOpen 0) State.reset := rfl

/-- V-S1, V-S2, V-S5. -/
theorem test_rxOpen : told 0 (exec (.rxOpen 0) two) = some (bareResult .ok) ∧
    told 0 (exec (.rxOpen 0) live) = some (bareResult .busy) := by decide
theorem test_rxOpen_resets :
    seen (fun t => (t.rx.timer.armed, t.rx.count, t.rx.sr, t.rx.frame, t.rx.err, t.rx.last))
      (exec (.rxOpen 0) { mid 5 3 1000 2000 with rx :=
        { (mid 5 3 1000 2000).rx with opened := false, frame := 0x2468AC, err := true } })
      = some (false, -1, 0, 0, false, 1000) := by decide
/-- V-S3, V-D15: the deadline stays armed. -/
theorem test_rxClose : seen (fun t => (t.rx.opened, t.rx.timer.armed, t.rx.count)) (exec (.rxClose 0) (mid 9 0 10900 11000))
    = some (false, true, 9) := by decide
/-- V-R2, V-R5. -/
theorem test_rxRead_frame : told 0 (exec (.rxRead 0 false 8) (held 0x22468ACF1 false))
    = some ⟨.ok, 0x2468ACF1, 2, 8, [0xF1, 0xAC, 0x68, 0x24, 0x02, 0x00, 0x00, 0x00]⟩ := by decide
theorem test_rxRead_error : (told 0 (exec (.rxRead 0 true 8) (held 0 true)), seen (·.rx.err) (exec (.rxRead 0 true 8) (held 0 true)))
    = (some ⟨.ok, 0, 0, 8, [0, 0, 0, 0, 0, 0, 0, 0]⟩, some false) := by decide
/-- V-R9, V-R10. -/
theorem test_rxPoll : told 0 (exec (.rxPoll 0) (held 0 true)) = some ⟨.ok, 0, 0, 0, []⟩ ∧
    told 0 (exec (.rxPoll 0) (held 0x2468AC false)) = some ⟨.ok, 1, 0, 0, []⟩ := by decide
theorem test_rxStatus : told 0 (exec (.rxStatus 0) (held 0 true)) = some ⟨.ok, 0, 0, 0, []⟩ ∧
    told 0 (exec (.rxStatus 0) (held 0x2468AC false)) = some ⟨.ok, 1, 0, 0, []⟩ := by decide
/-- V-T2, V-T4, V-T5; the session is closed. -/
theorem test_rxStrip_26 : told 0 (exec (.rxStrip 0 0xFE2468AD 0xFFFFFFFF) two) = some ⟨.ok, 0x123456, 0, 0, []⟩ := by decide
theorem test_rxStrip_34 :
    let s := { two with rx := { two.rx with len := .l34 } }
    told 0 (exec (.rxStrip 0 1 3) s) = some ⟨.ok, 0x80000000, 0, 0, []⟩ ∧
    told 0 (exec (.rxStrip 0 0x2468ACF1 0xFFFFFFFE) s) = some ⟨.ok, 0x12345678, 0, 0, []⟩ := by decide
/-- V-S9, V-S10, V-S11. -/
theorem test_rxSetPw_bounds : told 0 (exec (.rxSetPw 0 0) two) = some (bareResult .invalidArgument) ∧
    seen (·.rx.pw) (exec (.rxSetPw 0 16777215) two) = some 16777215 ∧
    told 0 (exec (.rxSetPw 0 16777216) two) = some (bareResult .invalidArgument) := by decide
/-- V-S12. -/
theorem test_rxSetPi : seen (fun t => (t.rx.pi, t.rx.pw)) (exec (.rxSetPi 0 1) two) = some (1, 100) := by decide
/-- V-S14, V-S15. -/
theorem test_rxSetLen_busy : told 0 (exec (.rxSetLen 0 34) (mid 5 0 1000 1000)) = some (bareResult .busy) ∧
    told 0 (exec (.rxSetLen 0 30) (mid 5 0 1000 1000)) = some (bareResult .invalidArgument) := by decide
/-- V-S6, V-E21: an open aborts the transmission and releases its writer. -/
theorem test_txOpen_aborts :
    let s := writing 5 .gap ⟨true, false⟩ 4500 4450 28601
    let o := exec (.txOpen 1) { s with tx := { s.tx with opened := false } }
    told 0 o = some (bareResult .interrupted) ∧ told 1 o = some (bareResult .ok) ∧
      seen (fun t => (t.tx.active, t.tx.timer.armed, t.tx.pos, t.lines)) o = some (false, false, 0, ⟨true, true⟩) := by
  decide
theorem test_txClose_goes_on : seen (fun t => (t.tx.opened, t.tx.active, t.lines))
    (exec (.txClose 1) (writing 5 .gap ⟨true, false⟩ 4500 4450 28601)) = some (false, true, ⟨true, false⟩) := by decide
/-- V-E1. -/
theorem test_txWrite_starts :
    seen (fun t => (t.tx.w0, t.tx.w1, t.tx.pos, t.tx.timer)) (exec (.txWrite 0 false 0x123456) live)
      = some (0x091A2B00, 0, 0, ⟨true, 0⟩) ∧
    seen (fun t => (t.tx.active, t.callers[0]?)) (exec (.txWrite 0 false 0x123456) live)
      = some (true, some ⟨.waitingWrite 28601 4, none⟩) := by decide
/-- V-E14: NB comes before the busy check. -/
theorem test_txWrite_nb_first :
    told 1 (exec (.txWrite 1 true 1) (writing 5 .gap ⟨true, false⟩ 4500 4450 28601)) = some (bareResult .wouldBlock) := by decide
/-- R173, R183, R249: after the completion firing and before the first writer's wake a write starts, and the first writer
has its OK; with NB it is WOULDBLOCK and the first writer goes on waiting. -/
theorem test_txWrite_serves_the_done_writer :
    seen (fun t => (t.tx.active, t.tx.done)) (exec (.txWrite 1 false 1) written) = some (true, false) ∧
    told 0 (exec (.txWrite 1 false 1) written) = some ⟨.ok, 0, 0, 4, []⟩ ∧
    told 1 (exec (.txWrite 1 true 1) written) = some (bareResult .wouldBlock) ∧
    told 0 (exec (.txWrite 1 true 1) written) = none := by decide
/-- V-E16, V-E17. -/
theorem test_txWriteBuf_eight_bytes :
    seen (fun t => (t.tx.w0, t.tx.w1, t.callers[0]?))
      (exec (.txWriteBuf 0 false 8 [0x78, 0x56, 0x34, 0x12, 0xAA, 0xBB, 0xCC, 0xDD])
        { live with tx := { live.tx with len := .l34 } })
      = some (0x891A2B3C, 0x40000000, some ⟨.waitingWrite 37401 8, none⟩) := by decide
theorem test_txWriteBuf_size_first :
    told 1 (exec (.txWriteBuf 1 true 3 []) (writing 5 .gap ⟨true, false⟩ 4500 4450 28601))
      = some (bareResult .invalidArgument) := by decide
/-- V-S19, V-S16, V-S18. -/
theorem test_txSetPw_mid_frame : seen (fun t => (t.tx.pw, t.rx.pw)) (exec (.txSetPw 0 200) (mid 5 0 1000 1000))
    = some (200, 100) := by decide
theorem test_txSetPi_busy : told 1 (exec (.txSetPi 1 500) (writing 5 .gap ⟨true, false⟩ 4500 4450 28601))
    = some (bareResult .busy) := by decide
theorem test_txSetLen : seen (fun t => (t.tx.len, t.rx.len)) (exec (.txSetLen 0 34) two) = some (.l34, .l26) := by decide
/-- V-D0, V-D4, V-D6. -/
theorem test_evEdge0_first : seen (fun t => (t.rx.last, t.rx.count, t.rx.sr, t.rx.timer)) (exec .evEdge0 { live with now := 1000 })
    = some (1000, 0, 0, ⟨true, 29600⟩) := by decide
theorem test_evEdge0_glitch : seen (·.rx) (exec .evEdge0 (mid 0 0 1000 1099)) = some (mid 0 0 1000 1099).rx := by decide
theorem test_evEdge1_gap : seen (fun t => (t.rx.count, t.rx.sr, t.rx.last, t.rx.err, t.rx.timer.armed))
    (exec .evEdge1 (mid 0 1 1000 4401)) = some (-1, 0, 1000, false, false) := by decide
/-- V-D7 and the shift of R127. -/
theorem test_evEdge1_accepted : seen (fun t => (t.rx.count, t.rx.sr, t.rx.last, t.rx.timer.due))
    (exec .evEdge1 (mid 0 1 1000 4400)) = some (1, 3, 4400, 29600) := by decide
/-- V-D1, V-D2. -/
theorem test_evRxTimer_completes : seen (fun t => (t.rx.frame, t.rx.err, t.rx.count, t.rx.sr))
    (exec .evRxTimer (mid 25 0x2468AC 28500 29600)) = some (0x2468AC, false, -1, 0) := by decide
theorem test_evRxTimer_errs : seen (fun t => (t.rx.frame, t.rx.err, t.rx.count, t.rx.sr))
    (exec .evRxTimer (mid 24 0x123456 27400 29600)) = some (0, true, -1, 0) := by decide
/-- V-E4, V-E7. -/
theorem test_evTxTimer_asserts : seen (fun t => (t.lines, t.tx.pos, t.tx.phase, t.tx.timer))
    (exec .evTxTimer (writing 4 .assertPulse ⟨true, true⟩ 4400 4400 28601))
      = some (⟨true, false⟩, 5, .gap, ⟨true, 4500⟩) := by decide
theorem test_evTxTimer_completes : seen (fun t => (t.tx.active, t.tx.done, t.tx.timer.armed, t.tx.pos))
    (exec .evTxTimer (writing 26 .assertPulse ⟨true, true⟩ 28600 28600 28601)) = some (false, true, false, 26) := by decide
/-- V-E20, V-R12. -/
theorem test_evCancel : told 0 (exec (.evCancel 0) (writing 10 .gap ⟨true, false⟩ 10100 10000 28601))
    = some (bareResult .interrupted) ∧ refusalOf (exec (.evCancel 0) two) = some .notEnabled := by decide
/-- V-R4. -/
theorem test_evWakeRead : told 0 (exec (.evWakeRead 0) (reading (held 0x2468AC false)))
    = some ⟨.ok, 0x2468AC, 0, 8, [0xAC, 0x68, 0x24, 0, 0, 0, 0, 0]⟩ := by decide
theorem test_evWakeRead_not_enabled : refusalOf (exec (.evWakeRead 0) (reading live)) = some .notEnabled := by decide
/-- V-E8, V-E10. -/
theorem test_evWakeWrite_done : told 0 (exec (.evWakeWrite 0) written) = some ⟨.ok, 0, 0, 4, []⟩ := by decide
theorem test_evWakeWrite_timeout :
    let o := exec (.evWakeWrite 0) (writing 26 .assertPulse ⟨true, true⟩ 28600 28600 28600)
    told 0 o = some (bareResult .timeout) ∧
      seen (fun t => (t.tx.active, t.tx.done, t.tx.timer.armed, t.tx.pos)) o = some (false, false, false, 26) := by decide
/-- V-X2, with the reader's side. -/
theorem test_evReset :
    let s := { writing 5 .gap ⟨true, false⟩ 4500 4450 28601 with
      callers := [⟨.waitingWrite 28601 4, none⟩, ⟨.waitingRead, none⟩] }
    let o := exec .evReset s
    told 0 o = some (bareResult .interrupted) ∧ told 1 o = some (bareResult .interrupted) ∧
      seen (fun t => (t.rx, t.tx, t.lines, t.now)) o = some (Rx.reset, Tx.reset, ⟨true, true⟩, 4450) := by decide
/-- R15: a time step may reach the deadline and not pass it. -/
theorem test_evTime : seen (·.now) (exec (.evTime 29600) (mid 0 0 1000 1000)) = some 29600 ∧
    refusalOf (exec (.evTime 29601) (mid 0 0 1000 1000)) = some .notEnabled := by decide
/-- V-S7, V-S8, R16, R72, R55. -/
theorem test_refusals : refusalOf (exec (.rxPoll 0) two) = some .noSession ∧
    refusalOf (exec (.txWrite 0 false 1) two) = some .noSession ∧
    refusalOf (exec (.rxOpen 0) (reading live)) = some .callerWaiting ∧
    refusalOf (exec (.txWriteBuf 0 false 4 [1, 2, 3]) live) = some .shortBuffer ∧
    refusalOf (exec (.rxOpen 2) two) = some .noSuchCaller := by decide

/-! ## Witnesses: a concrete state and operands for the hypotheses of each obligation, clause by clause -/

theorem witness_StepRunsTheDecodedInput :
    ({ two with inputs := [.event 0xFF 7] } : State).inputs = .event 0xFF 7 :: [] ∧
    decode (.event 0xFF 7) = .ok (.evTime 7) := by decide

/-- Each of the five ways a command word is illegal: V-C1, V-C6, V-C7, V-C4, V-C8. -/
theorem witness_IllegalCommandReturnsInvalidArgument :
    ({ two with inputs := [.command 1 ⟨0x203, 0, 0, []⟩] } : State).isReady 1 = true ∧ IllegalWord 0x00000000 ∧
    IllegalWord 0x00000203 ∧ IllegalWord 0x00100003 ∧ IllegalWord 0x00000101 ∧ IllegalWord 0x00040013 := by
  unfold IllegalWord
  exact ⟨by decide, by decide, by decide, by decide, by decide, by decide⟩

theorem witness_DecodeOfEncode : WellFormed (.txWriteBuf 3 true 15 (List.replicate 15 0xFF)) ∧
    WellFormed (.rxStrip 1 0xFFFFFFFF 0xFFFFFFFF) ∧ WellFormed (.evTime 0) := by decide

theorem witness_DecodedInstructionKeepsItsWord :
    decode (.command 1 ⟨0x000F0114, 0, 0, [1]⟩) = .ok (.txWriteBuf 1 true 15 [1]) := by decide

theorem witness_RxOpenStartsAFreshSession : two.isReady 1 = true ∧ two.rx.opened = false ∧ live.isReady 1 = true ∧
    live.rx.opened = true := by decide

theorem witness_CloseAlwaysSucceeds : two.isReady 0 = true := by decide

/-- The five clauses: SIZE 7, 8 and 15; a frame, an error alone, neither. -/
theorem witness_RxReadReturnsFrameErrorOrWaits :
    (∀ s ∈ [held 1 true, held 0 true, live], s.isReady 0 = true ∧ s.rx.opened = true) ∧
    (7 : BitVec 4).toNat < 8 ∧ 8 ≤ (8 : BitVec 4).toNat ∧ 8 ≤ (15 : BitVec 4).toNat ∧ (held 1 true).rx.frame ≠ 0 ∧
    (held 0 true).rx.frame = 0 ∧ (held 0 true).rx.err = true ∧ live.rx.frame = 0 ∧ live.rx.err = false := by decide

theorem witness_PollAndStatusReportTheUnreadFrame : (held 1 false).isReady 0 = true ∧ (held 1 false).rx.opened = true ∧
    live.isReady 0 = true ∧ live.rx.opened = true := by decide

theorem witness_RxStripDropsTheParityBits : two.isReady 0 = true ∧ two.rx.len = .l26 := by decide

/-- Values at both ends of the legal range and just outside it; idle and mid-frame. -/
theorem witness_RxSetChecksValueThenBusy : (two.isReady 0 = true ∧ two.rx.count = -1) ∧
    ((mid 0 0 0 0).isReady 0 = true ∧ (mid 0 0 0 0).rx.count ≠ -1) ∧
    ((1 ≤ (1 : Word).toNat ∧ (1 : Word).toNat ≤ 16777215) ∧
      1 ≤ (16777215 : Word).toNat ∧ (16777215 : Word).toNat ≤ 16777215) ∧
    (¬ (1 ≤ (0 : Word).toNat ∧ (0 : Word).toNat ≤ 16777215) ∧
      ¬ (1 ≤ (16777216 : Word).toNat ∧ (16777216 : Word).toNat ≤ 16777215)) ∧
    ¬ ((30 : Word) = 26 ∨ (30 : Word) = 34) := by simp; decide

theorem witness_TxSetChecksValueThenBusy : two.isReady 0 = true ∧ two.tx.active = false ∧
    (writing 1 .gap ⟨false, true⟩ 100 0 28601).isReady 1 = true ∧
    (writing 1 .gap ⟨false, true⟩ 100 0 28601).tx.active = true := by decide

theorem witness_TxOpenAbortsAndStartsAFreshSession : two.isReady 0 = true ∧ two.tx.opened = false ∧
    live.isReady 0 = true ∧ live.tx.opened = true := by decide

/-- The clauses: idle; active; done with a writer still waiting. -/
theorem witness_TxWriteStartsOrIsTurnedAway : (written.tx.active = false ∧ written.isReady 1 = true ∧
    written.tx.opened = true) ∧ live.isReady 0 = true ∧ live.tx.opened = true ∧ live.tx.active = false ∧
    (writing 1 .gap ⟨false, true⟩ 100 0 28601).isReady 1 = true ∧
    (writing 1 .gap ⟨false, true⟩ 100 0 28601).tx.opened = true ∧
    (writing 1 .gap ⟨false, true⟩ 100 0 28601).tx.active = true := by decide

/-- Sizes 3, 4, 8, 9; a buffer of exactly SIZE bytes and one byte short. -/
theorem witness_TxWriteBufChecksSizeThenWrites : live.isReady 0 = true ∧ live.tx.opened = true ∧
    (∀ z ∈ [(3 : BitVec 4), 9], z ≠ 4 ∧ z ≠ 8) ∧ (4 : BitVec 4).toNat ≤ [1, 2, 3, (4 : Byte)].length ∧
    (8 : BitVec 4).toNat ≤ [1, 2, 3, 4, 5, 6, 7, (8 : Byte)].length ∧
    [1, 2, (3 : Byte)].length < (4 : BitVec 4).toNat := by decide

/-- Diff 99, 100, 3400, 3401 after the last accepted edge at 1000, pw = 100, pi = 1000. -/
theorem witness_EdgeIsFirstGlitchGapOrAccepted : two.rx.opened = false ∧ live.rx.opened = true ∧ live.rx.count = -1 ∧
    (∀ n ∈ [1099, 1100, 4400, 4401], (mid 0 0 1000 n).rx.opened = true ∧ (mid 0 0 1000 n).rx.count ≠ -1 ∧
      (mid 0 0 1000 n).rx.last ≤ (mid 0 0 1000 n).now) ∧
    1099 - (mid 0 0 1000 1099).rx.last < (mid 0 0 1000 1099).rx.pw.toNat ∧
    (mid 0 0 1000 1100).rx.pw.toNat ≤ 1100 - (mid 0 0 1000 1100).rx.last ∧
    4400 - (mid 0 0 1000 4400).rx.last ≤ 100 + 3 * (100 + 1000) ∧
    100 + 3 * (100 + 1000) < 4401 - (mid 0 0 1000 4401).rx.last := by decide

theorem witness_DeadlineCompletesOrErrs :
    (∀ k ∈ [24, 25, 26], (mid k 0 28500 29600).rx.timer.armed = true ∧
      (mid k 0 28500 29600).now = (mid k 0 28500 29600).rx.timer.due) ∧
    (mid 25 0 28500 29600).rx.count = (mid 25 0 28500 29600).rx.len.bits - 1 ∧
    (mid 24 0 28500 29600).rx.count ≠ (mid 24 0 28500 29600).rx.len.bits - 1 ∧
    live.rx.timer.armed = false ∧ (mid 0 0 0 29599).now ≠ (mid 0 0 0 29599).rx.timer.due := by decide

/-- The decoder's invariant in the middle of a frame: V-D1 just before its deadline. -/
theorem decoderInv_mid : DecoderInv (mid 25 0x2468AC 28500 29600) :=
  ⟨by decide, by decide, by decide, by decide, by decide, by decide, by decide, by decide⟩

theorem witness_CompletedFrameFitsItsLength : ∃ t, DecoderInv (mid 25 0x2468AC 28500 29600) ∧
    (mid 25 0x2468AC 28500 29600).rx.count = (mid 25 0x2468AC 28500 29600).rx.len.bits - 1 ∧
    exec .evRxTimer (mid 25 0x2468AC 28500 29600) = .next t := ⟨_, decoderInv_mid, by decide, rfl⟩

/-- Accepted as a Bool. -/
def acceptedB (r : Rx) (n : Nat) : Bool :=
  r.count = -1 || (decide (r.last ≤ n) && decide (r.pw.toNat ≤ n - r.last) &&
    decide (n - r.last ≤ r.pw.toNat + 3 * (r.pw.toNat + r.pi.toNat)))

/-- The state after a list of edges, none where one is not accepted. -/
def feed : State → List (Nat × Bool) → Option State
  | s, [] => some s
  | s, (n, b) :: es => if acceptedB s.rx n then feed (edge b { s with now := n }) es else none

theorem train_of_feed : ∀ (es : List (Nat × Bool)) (s u : State), feed s es = some u → Train s es u
  | [], s, u, h => by cases h; exact .nil s
  | (n, b) :: es, s, u, h => by
    unfold feed at h
    split at h
    · rename_i hb
      refine .cons (t := edge b { s with now := n }) ?_ (by cases b <;> rfl) (train_of_feed es _ u h)
      simpa [acceptedB, Accepted, and_assoc] using hb
    · cases h

/-- n edges for a 0, 1100 µs apart. -/
def train (n : Nat) : List (Nat × Bool) := (List.range n).map fun i => (1000 + 1100 * i, false)

/-- 1, 26 and 27 accepted edges, and the deadline after them: the two outcomes. -/
theorem witness_FrameOutcomeByEdgeCount : ∀ n ∈ [1, 26, 27], ∃ u v, live.rx.opened = true ∧ live.rx.count = -1 ∧
    live.rx.sr = 0 ∧ train n ≠ [] ∧ Train live (train n) u ∧
    exec .evRxTimer { u with now := u.rx.timer.due } = .next v := by
  have armed : ∀ n ∈ [1, 26, 27], (feed live (train n)).map (fun u => u.rx.timer.armed) = some true := by decide
  have nonempty : ∀ n ∈ [1, 26, 27], train n ≠ [] := by decide
  intro n hn
  obtain ⟨u, hu, ha⟩ := Option.map_eq_some_iff.1 (armed n hn)
  refine ⟨u, { u with now := u.rx.timer.due, rx := u.rx.timeout }, rfl, rfl, rfl, nonempty n hn,
    train_of_feed _ _ _ hu, ?_⟩
  · simp [exec, execEvRxTimer, whenEnabled, Timer.firesAt, ha]

/-- A train with a glitch in it (V-D4): two accepted edges, a third 99 µs after the first dropped. -/
theorem witness_train_with_a_glitch : ∃ u, Train live [(1000, false), (2100, true)] u := by
  refine ⟨edge true { edge false { live with now := 1000 } with now := 2100 }, .cons (.inl rfl) rfl
    (.glitch (t := { edge false { live with now := 1000 } with now := 1099 }) (n := 1099) (b := true) ?_ rfl
      (.cons ?_ rfl (.nil _)))⟩
  · exact ⟨by decide, by decide, by decide⟩
  · exact .inr ⟨by decide, by decide, by decide⟩

theorem witness_SecondSimultaneousEdgeIsAGlitch : ∃ t, DecoderInv { live with now := 1000 } ∧ live.rx.opened = true ∧
    Accepted live.rx 1000 ∧ exec (edgeOf true) { live with now := 1000 } = .next t :=
  ⟨_, ⟨by decide, by decide, by decide, by decide, by decide, by decide, by decide, by decide⟩, rfl, .inl rfl, rfl⟩

theorem witness_PulseTimerBranches :
    (∀ s ∈ [writing 26 .assertPulse ⟨true, true⟩ 28600 28600 28601, writing 4 .assertPulse ⟨true, true⟩ 4400 4400 28601,
        writing 5 .gap ⟨true, false⟩ 4500 4500 28601], s.tx.timer.armed = true ∧ s.now = s.tx.timer.due) ∧
    (writing 26 .assertPulse ⟨true, true⟩ 28600 28600 28601).tx.pos = FrameLen.l26.bits ∧
    (writing 4 .assertPulse ⟨true, true⟩ 4400 4400 28601).tx.pos ≠ FrameLen.l26.bits ∧ live.tx.timer.armed = false := by
  decide

/-- n firings of the pulse timer, none where one is not enabled. -/
def fireN : Nat → State → Option State
  | 0, t => some t
  | n + 1, t => (fireN n t).bind fun u => nextOf (exec .evTxTimer { u with now := u.tx.timer.due })

theorem fires_of_fireN : ∀ (n : Nat) (t u : State), fireN n t = some u → Fires n t u
  | 0, t, u, h => by cases h; exact .zero t
  | n + 1, t, u, h => by
    obtain ⟨v, hv, hu⟩ := Option.bind_eq_some_iff.1 h
    refine .succ (fires_of_fireN n t v hv) ?_
    cases ho : exec .evTxTimer { v with now := v.tx.timer.due } with
    | next w => rw [ho] at hu; cases hu; rfl
    | fault f => cases f
    | refused r => rw [ho] at hu; cases hu

/-- The hypotheses of its two clauses at the first and the last bit. -/
theorem witness_WaveformOfAWrite : ∃ t, live.par.tLat = 0 ∧ live.tx.active = false ∧
    exec (.txWrite 0 false 0x123456) live = .next t ∧ (∀ m ∈ [0, 1, 50, 51], ∃ u, Fires m t u) := by
  refine ⟨waitWriter 0 4 (start 0x123456 live), rfl, rfl, rfl, fun m hm => ?_⟩
  have : ∀ m ∈ [0, 1, 50, 51], (fireN m (waitWriter 0 4 (start 0x123456 live))).isSome = true := by decide
  obtain ⟨u, hu⟩ := Option.isSome_iff_exists.1 (this m hm)
  exact ⟨u, fires_of_fireN _ _ _ hu⟩

theorem witness_CancelInterruptsAWaitingCaller : (reading live).callers[0]? = some ⟨.waitingRead, none⟩ ∧
    (CallerState.waitingRead ≠ .ready) ∧ (reading live).callers[1]? = some Caller.reset ∧
    Caller.reset.state = .ready := by decide

theorem witness_WakeReadCompletesAWaitingRead :
    (∀ s ∈ [reading (held 1 true), reading (held 0 true), reading live], s.callers[0]? = some ⟨.waitingRead, none⟩) ∧
    (reading (held 1 true)).rx.frame ≠ 0 ∧ (reading (held 0 true)).rx.frame = 0 ∧ (reading (held 0 true)).rx.err = true ∧
    (reading live).rx.frame = 0 ∧ (reading live).rx.err = false := by decide

/-- Done; not done at the deadline; not done one µs before it. -/
theorem witness_WakeWriteReportsDoneOrTimeout : written.callers[0]? = some ⟨.waitingWrite 28601 4, none⟩ ∧
    written.tx.done = true ∧
    (∀ n ∈ [28599, 28600], (writing 26 .assertPulse ⟨true, true⟩ 28600 n 28600).callers[0]? =
      some ⟨.waitingWrite 28600 4, none⟩ ∧ (writing 26 .assertPulse ⟨true, true⟩ 28600 n 28600).tx.done = false) := by decide

/-- A reading caller and a Ready one. -/
theorem witness_WakeWriteOfOtherCallersIsRefused : (reading live).callers[0]? = some ⟨.waitingRead, none⟩ ∧
    (∀ w n, CallerState.waitingRead ≠ .waitingWrite w n) ∧ live.callers[0]? = some Caller.reset ∧
    (∀ w n, Caller.reset.state ≠ .waitingWrite w n) := ⟨rfl, nofun, rfl, nofun⟩

/-- The first time step reaches every due time and passes none; then each agent is due. -/
theorem witness_TimeIsUrgent :
    (∃ t, exec (.evTime 28600) (writing 26 .assertPulse ⟨true, true⟩ 28600 28599 28600) = .next t) ∧
    (mid 25 0 28500 29600).rx.timer.armed = true ∧ (mid 25 0 28500 29600).now = (mid 25 0 28500 29600).rx.timer.due ∧
    (writing 26 .assertPulse ⟨true, true⟩ 28600 28600 28600).tx.timer.armed = true ∧
    (writing 26 .assertPulse ⟨true, true⟩ 28600 28600 28600).now =
      (writing 26 .assertPulse ⟨true, true⟩ 28600 28600 28600).tx.timer.due ∧
    (writing 26 .assertPulse ⟨true, true⟩ 28600 28600 28600).callers[0]? = some ⟨.waitingWrite 28600 4, none⟩ :=
  ⟨⟨_, rfl⟩, rfl, rfl, rfl, rfl, rfl⟩

/-- Nothing is overdue in V-D1's state with V-E1's writer waiting. -/
theorem onTime_both : OnTime (reading (mid 25 0x2468AC 28500 29600)) ∧
    OnTime (writing 5 .gap ⟨true, false⟩ 4500 4450 28601) := by
  refine ⟨⟨by decide, by decide, ?_, by decide⟩, ⟨by decide, by decide, ?_, by decide⟩⟩ <;>
    simp [reading, writing, Caller.reset]

theorem witness_TimeIsNeverStuck : OnTime (reading (mid 25 0x2468AC 28500 29600)) ∧
    OnTime (writing 5 .gap ⟨true, false⟩ 4500 4450 28601) := onTime_both

theorem witness_ClosedSessionRefusesReadsWritesAndQueries : two.isReady 0 = true ∧ two.rx.opened = false ∧
    two.tx.opened = false := by decide

theorem witness_WaitingCallerIssuesNothing : issuerOf (.rxStrip 0 1 2) = some 0 ∧
    (reading live).callers[0]? = some ⟨.waitingRead, none⟩ ∧ CallerState.waitingRead ≠ .ready := by decide

theorem witness_OnlyTimeStepsMoveNow : ∃ t u, exec (.evTime 5) two = .next t ∧ exec .evEdge1 live = .next u :=
  ⟨_, _, rfl, rfl⟩

theorem witness_NoStepChangesTheInstance : ∃ t, exec .evReset live = .next t := ⟨_, rfl⟩

/-- A step outside all the named ones. -/
theorem witness_OnlyTheirOwnCommandsWriteSessionsAndSettings : ∃ t,
    exec .evRxTimer (mid 25 0x2468AC 28500 29600) = .next t ∧ Instr.evRxTimer ≠ .evReset ∧
    (∀ c, Instr.evRxTimer ≠ .rxOpen c) ∧ (∀ c, Instr.evRxTimer ≠ .rxClose c) ∧ (∀ c, Instr.evRxTimer ≠ .txOpen c) ∧
    (∀ c, Instr.evRxTimer ≠ .txClose c) ∧ (∀ c a, Instr.evRxTimer ≠ .rxSetPw c a) ∧
    (∀ c a, Instr.evRxTimer ≠ .rxSetPi c a) ∧ (∀ c a, Instr.evRxTimer ≠ .rxSetLen c a) ∧
    (∀ c a, Instr.evRxTimer ≠ .txSetPw c a) ∧ (∀ c a, Instr.evRxTimer ≠ .txSetPi c a) ∧
    (∀ c a, Instr.evRxTimer ≠ .txSetLen c a) := ⟨_, rfl, by simp⟩

theorem witness_OnlyDecoderStepsWriteFrameAndError : ∃ t, exec (.rxClose 0) (mid 5 3 1000 2000) = .next t ∧
    (Instr.rxClose 0 ≠ .evReset ∧ (∀ c, Instr.rxClose 0 ≠ .rxOpen c) ∧ Instr.rxClose 0 ≠ .evRxTimer) ∧
    (∀ c nb size, Instr.rxClose 0 ≠ .rxRead c nb size) ∧ (∀ c, Instr.rxClose 0 ≠ .evWakeRead c) ∧
    Instr.rxClose 0 ≠ .evEdge0 ∧ Instr.rxClose 0 ≠ .evEdge1 := ⟨_, rfl, by simp⟩

theorem witness_OnlyTheEncoderDrivesTheLines : ∃ t,
    exec (.txClose 1) (writing 5 .gap ⟨true, false⟩ 4500 4450 28601) = .next t ∧ Instr.txClose 1 ≠ .evReset ∧
    Instr.txClose 1 ≠ .evTxTimer ∧ (∀ c, Instr.txClose 1 ≠ .txOpen c) ∧ (∀ c nb v, Instr.txClose 1 ≠ .txWrite c nb v) ∧
    (∀ c nb size buf, Instr.txClose 1 ≠ .txWriteBuf c nb size buf) ∧ (∀ c, Instr.txClose 1 ≠ .evWakeWrite c) :=
  ⟨_, rfl, by simp⟩

theorem witness_TransmissionIsFrozenWhileActive : ∃ t,
    exec .evTxTimer (writing 4 .assertPulse ⟨true, true⟩ 4400 4400 28601) = .next t ∧
    (writing 4 .assertPulse ⟨true, true⟩ 4400 4400 28601).tx.active = true ∧ t.tx.active = true := ⟨_, rfl, rfl, rfl⟩

/-- Two states that agree on the decoder and not on the encoder, and the other way round. -/
theorem witness_SubsystemsAreIndependent :
    (∃ t, exec .evEdge1 (mid 0 1 1000 4400) = .next t ∧ sideOf .evEdge1 = .decoder ∧
      ({ mid 0 1 1000 4400 with lines := ⟨false, true⟩ } : State).rx = (mid 0 1 1000 4400).rx) ∧
    (∃ t, exec (.txWrite 0 false 1) live = .next t ∧ sideOf (.txWrite 0 false 1) = .encoder ∧
      ({ live with rx := Rx.reset } : State).tx = live.tx) := ⟨⟨_, rfl, rfl, rfl⟩, ⟨_, rfl, rfl, rfl⟩⟩

theorem witness_EdgesAndTimersCommute : ∃ a b,
    exec .evEdge0 (writing 4 .assertPulse ⟨true, true⟩ 4400 4400 28601) = .next a ∧
    exec .evTxTimer (writing 4 .assertPulse ⟨true, true⟩ 4400 4400 28601) = .next b := ⟨_, _, rfl, rfl⟩

theorem witness_RepeatedCommandLeavesTheSameState : ∃ t, Repeatable (.rxSetPw 0 50) ∧ exec (.rxSetPw 0 50) two = .next t :=
  ⟨_, trivial, rfl⟩

theorem witness_CloseAndReopenRecovers : (writing 5 .gap ⟨true, false⟩ 4500 4450 28601).isReady 1 = true ∧
    (mid 5 3 1000 2000).isReady 1 = true := by decide

/-- The write of V-E10 at its deadline, with the completion firing due at the same now: T_LAT = 0, WR_MARGIN = 0. -/
def tie : State := { writing 26 .assertPulse ⟨true, true⟩ 28600 28600 28600 with par := ⟨0, 0⟩ }

theorem encoderInv_tie : EncoderInv tie :=
  ⟨by decide, by decide, by decide, by decide, by decide, by decide, by decide, by decide, by decide⟩

/-- The writers' invariant where caller 0 waits with deadline w and n bytes and caller 1 is Ready. -/
theorem writerInv_one {s : State} {w n : Nat} (hc : s.callers = [⟨.waitingWrite w n, none⟩, Caller.reset])
    (hs : s.tx.done = false → s.tx.active = true ∧
      s.tx.timer.due + s.tx.workLeft + s.tx.armsLeft * s.par.tLat + s.par.wrMargin ≤
        w + (2 * s.tx.llen.bits + 1) * s.par.tLat) : WriterInv s := by
  have key : ∀ (c : CallerId) (x : Caller) (w' n' : Nat), s.callers[c]? = some x → x.state = .waitingWrite w' n' →
      c = 0 ∧ w' = w := by
    intro c x w' n' hx hw
    rw [hc] at hx
    match c, hx with
    | 0, hx => cases hx; cases hw; exact ⟨rfl, rfl⟩
    | 1, hx => cases hx; cases hw
  refine ⟨fun c d x y w n w' n' hx hy hw hw' => ?_, fun c x w' n' hx hw => ?_⟩
  · rw [(key _ _ _ _ hx hw).1, (key _ _ _ _ hy hw').1]
  · rw [(key _ _ _ _ hx hw).2]; exact hs

/-- After the completion firing and during the transmission; both kinds of write. -/
theorem witness_OnlyOneCallerWaitsInAWrite :
    (WriterInv written ∧ written.callers[0]? = some ⟨.waitingWrite 28601 4, none⟩ ∧ written.isReady 1 = true ∧
      written.tx.opened = true ∧ written.tx.active = false) ∧
    (WriterInv (writing 5 .gap ⟨true, false⟩ 4500 4450 28601) ∧
      (writing 5 .gap ⟨true, false⟩ 4500 4450 28601).callers[0]? = some ⟨.waitingWrite 28601 4, none⟩ ∧
      (writing 5 .gap ⟨true, false⟩ 4500 4450 28601).isReady 1 = true ∧
      (writing 5 .gap ⟨true, false⟩ 4500 4450 28601).tx.active = true) ∧
    PlainWrite 1 (.txWrite 1 false 7) ∧ PlainWrite 1 (.txWriteBuf 1 false 4 [1, 2, 3, 4]) :=
  ⟨⟨writerInv_one rfl (by decide), by decide⟩, ⟨writerInv_one rfl (by decide), by decide⟩, ⟨rfl, rfl⟩,
    rfl, rfl, .inl rfl, by decide⟩

theorem witness_TimeoutNeedsLatenessOfTheMargin : ∃ t, WriterInv tie ∧ EncoderInv tie ∧ OnTime tie ∧
    exec (.evWakeWrite 0) tie = .next t ∧ t.callers[0]? = some ⟨.ready, some (bareResult .timeout)⟩ := by
  refine ⟨_, writerInv_one rfl (by decide), encoderInv_tie, ⟨by decide, by decide, ?_, by decide⟩, rfl, rfl⟩
  simp [tie, writing, Caller.reset]

theorem witness_OrderDecidesAtTheDeadline : tie.callers[0]? = some ⟨.waitingWrite tie.now 4, none⟩ ∧
    tie.tx.done = false ∧ tie.tx.timer = ⟨true, tie.now⟩ ∧ tie.tx.phase = .assertPulse ∧
    tie.tx.pos = tie.tx.llen.bits := by decide

/-- The 52 firings of a 26-bit write with WR_MARGIN = 0. -/
theorem witness_TimeoutCanHappenWithoutMargin : ∃ t u, ({ live with par := ⟨0, 0⟩ } : State).tx.active = false ∧
    exec (.txWrite 0 false 0x123456) { live with par := ⟨0, 0⟩ } = .next t ∧ Fires (2 * live.tx.len.bits) t u := by
  have : (fireN 52 (waitWriter 0 4 (start 0x123456 { live with par := ⟨0, 0⟩ }))).isSome = true := by decide
  obtain ⟨u, hu⟩ := Option.isSome_iff_exists.1 this
  exact ⟨_, u, rfl, rfl, fires_of_fireN _ _ _ hu⟩

/-- A step of the pulse timer in the middle of a write (T_LAT = 0, WR_MARGIN = 1). -/
theorem witness_StepKeepsWriterInv : ∃ t,
    EncoderInv { writing 5 .gap ⟨true, false⟩ 4500 4500 28601 with inputs := [.event 0x90 0] } ∧
    WriterInv { writing 5 .gap ⟨true, false⟩ 4500 4500 28601 with inputs := [.event 0x90 0] } ∧
    step { writing 5 .gap ⟨true, false⟩ 4500 4500 28601 with inputs := [.event 0x90 0] } = .next t :=
  ⟨_, ⟨by decide, by decide, by decide, by decide, by decide, by decide, by decide, by decide, by decide⟩,
    writerInv_one rfl (by decide), rfl⟩

theorem witness_StepKeepsDecoderInv : ∃ t, DecoderInv { mid 25 0x2468AC 28500 29600 with inputs := [.event 0x88 0] } ∧
    step { mid 25 0x2468AC 28500 29600 with inputs := [.event 0x88 0] } = .next t :=
  ⟨_, ⟨by decide, by decide, by decide, by decide, by decide, by decide, by decide, by decide⟩, rfl⟩

theorem witness_StepKeepsEncoderInv : ∃ t,
    EncoderInv { writing 5 .gap ⟨true, false⟩ 4500 4500 28601 with inputs := [.event 0x90 0] } ∧
    step { writing 5 .gap ⟨true, false⟩ 4500 4500 28601 with inputs := [.event 0x90 0] } = .next t :=
  ⟨_, ⟨by decide, by decide, by decide, by decide, by decide, by decide, by decide, by decide, by decide⟩, rfl⟩

theorem witness_StepKeepsOnTime : ∃ t, OnTime { two with inputs := [.event 0xFF 9] } ∧
    step { two with inputs := [.event 0xFF 9] } = .next t :=
  ⟨_, ⟨by decide, by decide, by simp [two, Caller.reset], by decide⟩, rfl⟩

theorem witness_EncodeThenStripRoundTrip : Rx.reset.sr = 0 := rfl

end Sys2Proof.Tests
end

section
/-! The scope's rules on steps, time and callers (00_scope R8 to R20): which steps are enabled when an agent is due, what
every step leaves unchanged, and that no step leaves anything overdue. -/

namespace Sys2Proof.Machine

variable {s t : State} {c : CallerId} {i : Instr}

/-! ## Commands of waiting callers (R16) -/

/-- Every command goes through `issue` for the caller that issues it. -/
theorem exec_eq_issue (s : State) (hi : issuerOf i = some c) : ∃ o, exec i s = issue c s o := by
  cases i <;> cases hi
  all_goals exact ⟨_, rfl⟩

theorem issue_of_waiting {x : Caller} (o : StepOutcome) (hx : s.callers[c]? = some x) (hw : x.state ≠ .ready) :
    issue c s o = .refused .callerWaiting := by
  simp [issue, hx, hw]

/-! ## When time and the due agents can step (R14, R15) -/

theorem exec_evTime_next {n : Nat} : exec (.evTime n) s = .next t ↔ s.timeAllowed n = true ∧ t = { s with now := n } := by
  rw [exec, execEvTime, whenEnabled_next, Host.Outcome.next.injEq, eq_comm (a := t)]

theorem exec_evTime_refused {n : Nat} (h : ¬ s.timeAllowed n = true) : exec (.evTime n) s = .refused .notEnabled := by
  simp [exec, execEvTime, whenEnabled, h]

theorem exec_evRxTimer_of_due (armed : s.rx.timer.armed = true) (due : s.now = s.rx.timer.due) :
    exec .evRxTimer s = .next { s with rx := s.rx.timeout } :=
  whenEnabled_next.2 ⟨firesAt_iff.2 ⟨armed, due⟩, rfl⟩

theorem exec_evTxTimer_of_due (armed : s.tx.timer.armed = true) (due : s.now = s.tx.timer.due) :
    exec .evTxTimer s = .next (pulse s) :=
  whenEnabled_next.2 ⟨firesAt_iff.2 ⟨armed, due⟩, rfl⟩

/-- A waiting writer whose deadline has come completes, with OK or with TIMEOUT (R183). -/
theorem exec_evWakeWrite_of_due {x : Caller} {d n : Nat} (hx : s.callers[c]? = some x)
    (hw : x.state = .waitingWrite d n) (due : d ≤ s.now) : ∃ t, exec (.evWakeWrite c) s = .next t := by
  have expired : s.writeOver d = true := by simp [State.writeOver, due]
  by_cases done : s.tx.done = true
  · exact ⟨s.finish c (writeResult n), by simp [exec, execEvWakeWrite, ofCaller, hx, hw, expired, whenEnabled, done]⟩
  · exact ⟨(abort s).finish c (.bare .timeout),
      by simp [exec, execEvWakeWrite, ofCaller, hx, hw, expired, whenEnabled, done]⟩

/-! ## What an instruction leaves unchanged (R8, R18) -/

/-- Taking the frame touches the decoder and the callers only, and leaves the number of callers. -/
theorem takeFrame_onlyRx (c : CallerId) (s : State) :
    OnlyRx s (takeFrame c s) ∧ (takeFrame c s).callers.length = s.callers.length := by
  obtain ⟨r, f, e, h, _⟩ := takeFrame_cases c s
  rw [h]
  exact ⟨⟨rfl, rfl, rfl, rfl, rfl, rfl⟩, by simp⟩

theorem waitWriter_start_sameFrame (c : CallerId) (n : Nat) (v : Word) (s : State) :
    SameFrame s (waitWriter c n (start v s.serveDone)) :=
  ⟨rfl, rfl, by simp [waitWriter, start_eq]⟩

theorem takeFrame_sameFrame (c : CallerId) (s : State) : SameFrame s (takeFrame c s) :=
  have ⟨frame, length⟩ := takeFrame_onlyRx c s
  ⟨frame.par, frame.inputs, length⟩

theorem edge_sameFrame (l : Bool) (s : State) : SameFrame s (edge l s) :=
  have ⟨frame, callers⟩ := edge_frame l s
  ⟨frame.par, frame.inputs, by rw [callers]⟩

theorem pulse_sameFrame (s : State) : SameFrame s (pulse s) :=
  have ⟨frame, callers⟩ := pulse_frame s
  ⟨frame.par, frame.inputs, by rw [callers]⟩

theorem Effect.sameFrame (e : Effect s i t) : SameFrame s t := by
  cases e
  case rxTake | evWakeRead => exact takeFrame_sameFrame _ s
  case txWrite | txWriteBuf => exact waitWriter_start_sameFrame _ _ _ s
  case evEdge l => exact edge_sameFrame l s
  case evTxTimer => exact pulse_sameFrame s
  all_goals exact ⟨rfl, rfl, by simp [abort_eq, openTx_eq]⟩

/-- Only EV_TIME moves now (R14). -/
theorem Effect.now_eq (e : Effect s i t) (hi : ∀ n, i ≠ .evTime n) : t.now = s.now := by
  cases e
  case rxTake | evWakeRead => exact (takeFrame_onlyRx _ s).1.now
  case evEdge l => exact (edge_frame l s).1.now
  case evTxTimer => exact (pulse_frame s).1.now
  case evTime n _ => exact absurd rfl (hi n)
  all_goals rfl

/-! ## Nothing gets overdue (R15)

`OnTime` speaks of the two timers, of the writers and of the last edge. The lemmas below say for each operation why it
keeps it: a timer it arms is due at now or later, a wait it begins ends at now or later, an edge it accepts is at now. -/

theorem onTime_setCaller (h : OnTime s) (c : CallerId) {y : Caller}
    (hy : ∀ d n, y.state = .waitingWrite d n → s.now ≤ d) : OnTime { s with callers := s.callers.set c y } := by
  refine ⟨h.rx, h.tx, fun x hx => ?_, h.edge⟩
  rcases List.mem_or_eq_of_mem_set hx with hx | rfl
  · exact h.writer x hx
  · exact hy

/-- Callers may change as long as none begins to wait in a write. -/
theorem onTime_mapCallers (h : OnTime s) {f : Caller → Caller}
    (hf : ∀ x d n, (f x).state = .waitingWrite d n → x.state = .waitingWrite d n) :
    OnTime { s with callers := s.callers.map f } := by
  refine ⟨h.rx, h.tx, fun y hy d n hw => ?_, h.edge⟩
  obtain ⟨x, hx, rfl⟩ := List.mem_map.1 hy
  exact h.writer x hx d n (hf x d n hw)

theorem onTime_finish {r : Result} (h : OnTime s) : OnTime (s.finish c r) :=
  onTime_setCaller h _ nofun

theorem onTime_interrupt {p : CallerState → Bool} (h : OnTime s) : OnTime (s.interrupt p) := by
  refine onTime_mapCallers h fun x d n hw => ?_
  rcases interruptIf_state p x with same | ready
  · rw [← same, hw]
  · rw [ready] at hw; cases hw

theorem onTime_serveDone (h : OnTime s) : OnTime s.serveDone :=
  onTime_mapCallers h fun _ _ _ hw => (serveIf_waits hw).2

/-- The decoder may change as long as its timer, its counter and the time of its last edge stay. -/
theorem onTime_sameRxTimer (h : OnTime s) {r : Rx} (timer : r.timer = s.rx.timer) (count : r.count = s.rx.count)
    (last : r.last = s.rx.last) : OnTime { s with rx := r } :=
  ⟨timer ▸ h.rx, h.tx, h.writer, count ▸ last ▸ h.edge⟩

/-- The encoder may change as long as its timer stays. -/
theorem onTime_sameTxTimer (h : OnTime s) {x : Tx} (timer : x.timer = s.tx.timer) : OnTime { s with tx := x } :=
  ⟨h.rx, timer ▸ h.tx, h.writer, h.edge⟩

/-- A decoder whose timer is off and that is IDLE has nothing overdue. -/
theorem onTime_idleRx (h : OnTime s) {r : Rx} (off : r.timer.armed = false) (idle : r.count = -1) :
    OnTime { s with rx := r } :=
  ⟨by simp [off], h.tx, h.writer, by simp [idle]⟩

theorem timeout_off (r : Rx) : r.timeout.timer.armed = false ∧ r.timeout.count = -1 := by
  by_cases hc : r.count = r.len.bits - 1
  · simp [timeout_complete hc]
  · simp [timeout_error hc]

theorem onTime_takeFrame (h : OnTime s) (c : CallerId) : OnTime (takeFrame c s) := by
  obtain ⟨r, f, e, heq, _⟩ := takeFrame_cases c s
  rw [heq]
  exact onTime_finish (onTime_sameRxTimer h rfl rfl rfl)

theorem onTime_edge (h : OnTime s) (l : Bool) : OnTime (edge l s) := by
  rcases edge_cases l s with heq | ⟨_, heq⟩ | ⟨_, heq⟩ | ⟨_, heq⟩ <;> rw [heq]
  case inl => exact h
  case inr.inl =>
    have due : s.now ≤ s.now + s.rx.deadline + s.latency .rx := by omega
    exact ⟨fun _ => due, h.tx, h.writer, fun _ => le_rfl⟩
  case inr.inr.inl => exact onTime_idleRx h rfl rfl
  case inr.inr.inr => exact ⟨h.rx, h.tx, h.writer, fun _ => le_rfl⟩

theorem onTime_pulse (h : OnTime s) : OnTime (pulse s) := by
  rcases pulse_cases s with ⟨_, _, heq⟩ | ⟨_, _, heq⟩ | ⟨_, heq⟩ <;> rw [heq]
  case inl => exact ⟨h.rx, nofun, h.writer, h.edge⟩
  case inr.inl =>
    have due : s.now ≤ s.now + s.tx.pw.toNat + s.latency .tx := by omega
    exact ⟨h.rx, fun _ => assertBit_eq s ▸ due, h.writer, h.edge⟩
  case inr.inr =>
    have due : s.now ≤ s.now + s.tx.pi.toNat + s.latency .tx := by omega
    exact ⟨h.rx, fun _ => due, h.writer, h.edge⟩

theorem onTime_start (h : OnTime s) (V : Word) : OnTime (start V s) :=
  ⟨h.rx, fun _ => Nat.le_add_right _ _, h.writer, h.edge⟩

theorem onTime_waitWriter (h : OnTime s) (c : CallerId) (n : Nat) : OnTime (waitWriter c n s) := by
  refine onTime_setCaller h c fun d k hw => ?_
  obtain ⟨rfl, -⟩ := CallerState.waitingWrite.inj hw
  omega

theorem onTime_openTx (h : OnTime s) : OnTime (openTx s) := ⟨h.rx, nofun, h.writer, h.edge⟩

theorem onTime_abort (h : OnTime s) : OnTime (abort s) := ⟨h.rx, nofun, h.writer, h.edge⟩

/-- A time step goes no further than the earliest due time (R15), and an accepted edge stays in the past. -/
theorem onTime_evTime (h : OnTime s) {n : Nat} (allowed : s.timeAllowed n = true) : OnTime { s with now := n } := by
  obtain ⟨later, rx, tx, writer⟩ := timeAllowed_iff.1 allowed
  exact ⟨rx, tx, writer, fun hc => (h.edge hc).trans later.le⟩

theorem Effect.onTime (e : Effect s i t) (h : OnTime s) : OnTime t := by
  cases e
  case told | evCancel | wakeDone => exact onTime_finish h
  case rxOpen => exact onTime_finish (onTime_interrupt (onTime_idleRx h rfl rfl))
  case rxClose | rxSetPw | rxSetPi | rxSetLen => exact onTime_finish (onTime_sameRxTimer h rfl rfl rfl)
  case rxTake | evWakeRead => exact onTime_takeFrame h _
  case rxWait => exact onTime_setCaller h _ nofun
  case txOpen => exact onTime_finish (onTime_interrupt (onTime_openTx h))
  case txClose | txSetPw | txSetPi | txSetLen => exact onTime_finish (onTime_sameTxTimer h rfl)
  case txWrite | txWriteBuf => exact onTime_waitWriter (onTime_start (onTime_serveDone h) _) _ _
  case evEdge l => exact onTime_edge h l
  case evRxTimer => exact onTime_idleRx h (timeout_off s.rx).1 (timeout_off s.rx).2
  case evTxTimer => exact onTime_pulse h
  case wakeTimeout => exact onTime_finish (onTime_abort h)
  case evReset => exact onTime_interrupt ⟨nofun, nofun, h.writer, fun _ => Nat.zero_le _⟩
  case evTime allowed => exact onTime_evTime h allowed

/-! ## The statements -/

/-- Settles O47: a case split over what an instruction can do (`Effect.onTime`); an illegal command only answers. -/
theorem stepKeepsOnTime : Obligations.StepKeepsOnTime := by
  unfold Obligations.StepKeepsOnTime
  intro s t hs hstep
  exact step_keeps (fun _ _ h => ⟨h.rx, h.tx, h.writer, h.edge⟩) (fun _ _ _ h he => (exec_effect he).onTime h)
    (fun _ _ _ h => onTime_finish h) hs hstep

/-- Settles O29: a time step is enabled exactly when `timeAllowed` holds, and an agent due now contradicts that. -/
theorem timeIsUrgent : Obligations.TimeIsUrgent := by
  unfold Obligations.TimeIsUrgent
  intro s n
  refine ⟨fun later rx tx writer => ?_, fun t ht => ?_, fun armed due => ?_, fun armed due => ?_,
    fun c x d k hx hw due => ?_⟩
  · exact exec_evTime_next.2 ⟨timeAllowed_iff.2 ⟨later, rx, tx, writer⟩, rfl⟩
  · exact timeAllowed_iff.1 (exec_evTime_next.1 ht).1
  · refine ⟨⟨_, exec_evRxTimer_of_due armed due⟩, exec_evTime_refused fun allowed => ?_⟩
    obtain ⟨later, rx, -, -⟩ := timeAllowed_iff.1 allowed
    have := rx armed
    omega
  · refine ⟨⟨_, exec_evTxTimer_of_due armed due⟩, exec_evTime_refused fun allowed => ?_⟩
    obtain ⟨later, -, tx, -⟩ := timeAllowed_iff.1 allowed
    have := tx armed
    omega
  · refine ⟨exec_evWakeWrite_of_due hx hw due.ge, exec_evTime_refused fun allowed => ?_⟩
    obtain ⟨later, -, -, writer⟩ := timeAllowed_iff.1 allowed
    have := writer x (List.mem_of_getElem? hx) d k hw
    omega

/-- Settles O30: if no agent is due now, every due time lies strictly after now, so time can move by one. -/
theorem timeIsNeverStuck : Obligations.TimeIsNeverStuck := by
  unfold Obligations.TimeIsNeverStuck
  intro s hs
  by_cases rx : s.rx.timer.armed = true ∧ s.now = s.rx.timer.due
  · exact .inr (.inl ⟨_, exec_evRxTimer_of_due rx.1 rx.2⟩)
  by_cases tx : s.tx.timer.armed = true ∧ s.now = s.tx.timer.due
  · exact .inr (.inr (.inl ⟨_, exec_evTxTimer_of_due tx.1 tx.2⟩))
  by_cases writer : ∃ x ∈ s.callers, ∃ k, x.state = .waitingWrite s.now k
  · obtain ⟨x, hx, k, hw⟩ := writer
    obtain ⟨c, hc⟩ := List.mem_iff_getElem?.1 hx
    exact .inr (.inr (.inr ⟨c, exec_evWakeWrite_of_due hc hw le_rfl⟩))
  · refine .inl ⟨_, exec_evTime_next.2 ⟨timeAllowed_iff.2 ⟨Nat.lt_succ_self _, fun armed => ?_, fun armed => ?_,
      fun x hx d k hw => ?_⟩, rfl⟩⟩
    · exact lt_of_le_of_ne (hs.rx armed) fun due => rx ⟨armed, due⟩
    · exact lt_of_le_of_ne (hs.tx armed) fun due => tx ⟨armed, due⟩
    · exact lt_of_le_of_ne (hs.writer x hx d k hw) fun due => writer ⟨x, hx, k, due ▸ hw⟩

/-- Settles O33: EV_TIME by its enabling condition, every other instruction by `Effect.now_eq`. -/
theorem onlyTimeStepsMoveNow : Obligations.OnlyTimeStepsMoveNow := by
  unfold Obligations.OnlyTimeStepsMoveNow
  intro s t i hi
  by_cases time : ∃ n, i = .evTime n
  · obtain ⟨n, rfl⟩ := time
    obtain ⟨allowed, rfl⟩ := exec_evTime_next.1 hi
    exact .inl ⟨n, rfl, rfl, (timeAllowed_iff.1 allowed).1⟩
  · have hne : ∀ n, i ≠ .evTime n := fun n h => time ⟨n, h⟩
    exact .inr ⟨hne, (exec_effect hi).now_eq hne⟩

/-- Settles O34, by the case split of `Effect.sameFrame`. -/
theorem noStepChangesTheInstance : Obligations.NoStepChangesTheInstance := by
  unfold Obligations.NoStepChangesTheInstance
  intro s t i hi
  exact (exec_effect hi).sameFrame

/-- Settles O2, by the definition of `step` at a nonempty list whose head decodes. -/
theorem stepRunsTheDecodedInput : Obligations.StepRunsTheDecodedInput := by
  unfold Obligations.StepRunsTheDecodedInput
  intro s x rest i hin hdec
  simp only [step, hin, hdec]

/-- Settles O32: every command is issued, and `issue` refuses a caller that waits. -/
theorem waitingCallerIssuesNothing : Obligations.WaitingCallerIssuesNothing := by
  unfold Obligations.WaitingCallerIssuesNothing
  intro s i c x hi hx hw
  obtain ⟨o, ho⟩ := exec_eq_issue s hi
  rw [ho, issue_of_waiting o hx hw]

end Sys2Proof.Machine
end

section
/-! The state's rules (10_state R30 to R58): the initial state is the reset table, every step keeps the invariants of the
decoder and of the encoder, and which steps write the sessions, the settings, the decode state and the lines. -/

namespace Sys2Proof.Machine

variable {s t : State} {i : Instr}

/-! ## The decoder's invariant (R43, R35, R36) -/

/-- The decoder's invariant speaks of the decoder only. -/
theorem decoderInv_sameRx (h : DecoderInv s) (rx : t.rx = s.rx) : DecoderInv t :=
  ⟨rx ▸ h.pw, rx ▸ h.pi, rx ▸ h.count_ge, rx ▸ h.count_le, rx ▸ h.idle, rx ▸ h.busy, rx ▸ h.sr_lt, rx ▸ h.frame_lt⟩

/-- An IDLE decoder with an empty accumulator and a disarmed deadline needs legal settings and a short frame only. -/
theorem decoderInv_idle (pw : legalTime s.rx.pw = true) (pi : legalTime s.rx.pi = true) (idle : s.rx.count = -1)
    (sr : s.rx.sr = 0) (off : s.rx.timer.armed = false) (frame_lt : s.rx.frame.toNat < 2 ^ 34) : DecoderInv s :=
  ⟨pw, pi, by omega, by omega, fun _ => ⟨sr, off⟩, fun _ => by omega, fun _ => by omega, frame_lt⟩

theorem noFrame_lt : (0 : DWord).toNat < 2 ^ 34 := by decide

/-- The accumulator holds as many bits as were shifted in, none while IDLE. -/
theorem DecoderInv.sr_lt_bits (h : DecoderInv s) : s.rx.sr.toNat < 2 ^ (s.rx.count + 1).toNat := by
  by_cases idle : s.rx.count = -1
  · simp [h.idle idle, idle]
  · have busy : 0 ≤ s.rx.count := by have := h.count_ge; omega
    have bits : (s.rx.count + 1).toNat = s.rx.count.toNat + 1 := by omega
    exact bits ▸ h.sr_lt busy

/-- A shift-in adds one bit to the accumulator; a saturated counter stands for more bits than it has (R127). -/
theorem shiftIn_sr_lt {r : Rx} (l : Bool) (ge : -1 ≤ r.count) (sr : r.sr.toNat < 2 ^ (r.count + 1).toNat) :
    (r.shiftIn l).sr.toNat < 2 ^ ((r.shiftIn l).count.toNat + 1) := by
  simp only [shiftIn_eq, BitVec.toNat_ofNat]
  by_cases saturated : r.count < 127
  · have bits : (min (r.count + 1) 127).toNat + 1 = (r.count + 1).toNat + 1 := by omega
    have bit : l.toNat ≤ 1 := Bool.toNat_le l
    rw [bits, pow_succ]
    exact (Nat.mod_le _ _).trans_lt (by omega)
  · have bits : (min (r.count + 1) 127).toNat + 1 = 128 := by omega
    rw [bits]
    exact (Nat.mod_lt _ (by decide)).trans (by decide)

/-- A shift-in keeps the invariant, whatever the time of the edge, once the deadline is armed (R125 to R127). -/
theorem decoderInv_shiftIn (h : DecoderInv s) (l : Bool) (n : Nat) {T : Timer} (armed : T.armed = true)
    (rx : t.rx = ({ s.rx with last := n, timer := T } : Rx).shiftIn l) : DecoderInv t := by
  have ge := h.count_ge
  have count : t.rx.count = min (s.rx.count + 1) 127 := by rw [rx, shiftIn_eq]
  have sr := shiftIn_sr_lt (r := { s.rx with last := n, timer := T }) l ge h.sr_lt_bits
  rw [← rx] at sr
  refine ⟨rx ▸ h.pw, rx ▸ h.pi, by omega, by omega, fun _ => by omega, fun _ => ?_, fun _ => sr, rx ▸ h.frame_lt⟩
  rw [rx]
  exact armed

theorem decoderInv_edge (h : DecoderInv s) (l : Bool) : DecoderInv (edge l s) := by
  rcases edge_cases l s with heq | ⟨_, heq⟩ | ⟨_, heq⟩ | ⟨busy, heq⟩ <;> rw [heq]
  case inl => exact h
  case inr.inl => exact decoderInv_shiftIn h l s.now rfl rfl
  case inr.inr.inl => exact decoderInv_idle h.pw h.pi rfl rfl rfl h.frame_lt
  case inr.inr.inr =>
    have armed := h.busy (by have := h.count_ge; omega)
    exact decoderInv_shiftIn h l s.now armed rfl

/-- A frame completed at length L takes the accumulator, which has no bit at or above position L (R43, point 3). -/
theorem timeout_frame_lt (h : DecoderInv s) (complete : s.rx.count = s.rx.len.bits - 1) :
    s.rx.timeout.frame.toNat < 2 ^ s.rx.len.bits := by
  have bits : (s.rx.count + 1).toNat = s.rx.len.bits := by omega
  rw [timeout_complete complete]
  exact bits ▸ h.sr_lt_bits

theorem decoderInv_timeout (h : DecoderInv s) : DecoderInv { s with rx := s.rx.timeout } := by
  by_cases complete : s.rx.count = s.rx.len.bits - 1
  · have frame_lt : s.rx.timeout.frame.toNat < 2 ^ 34 :=
      (timeout_frame_lt h complete).trans_le (Nat.pow_le_pow_right (by decide) (bits_le _))
    rw [timeout_complete complete] at frame_lt ⊢
    exact decoderInv_idle h.pw h.pi rfl rfl rfl frame_lt
  · rw [timeout_error complete]
    exact decoderInv_idle h.pw h.pi rfl rfl rfl h.frame_lt

theorem decoderInv_takeFrame (h : DecoderInv s) (c : CallerId) : DecoderInv (takeFrame c s) := by
  obtain ⟨r, f, e, heq, hf⟩ := takeFrame_cases c s
  have frame_lt : f.toNat < 2 ^ 34 := by
    rcases hf with rfl | rfl
    · exact h.frame_lt
    · exact noFrame_lt
  rw [heq]
  exact { h with frame_lt }

theorem decoderInv_reset : DecoderInv State.reset :=
  decoderInv_idle (by decide) (by decide) rfl rfl rfl noFrame_lt

theorem Effect.decoderInv (e : Effect s i t) (h : DecoderInv s) : DecoderInv t := by
  cases e
  case rxOpen => exact decoderInv_idle h.pw h.pi rfl rfl rfl noFrame_lt
  case rxClose | rxSetLen => exact { h with }
  case rxSetPw legal _ => exact { h with pw := legal }
  case rxSetPi legal _ => exact { h with pi := legal }
  case rxTake | evWakeRead => exact decoderInv_takeFrame h _
  case evEdge l => exact decoderInv_edge h l
  case evRxTimer => exact decoderInv_timeout h
  case evTxTimer => exact decoderInv_sameRx h (pulse_frame s).1.rx
  case evReset => exact decoderInv_sameRx decoderInv_reset rfl
  all_goals exact decoderInv_sameRx h rfl

/-! ## The encoder's invariant (R57, R35, R48, R49) -/

/-- The encoder's invariant speaks of the encoder and its lines only. -/
theorem encoderInv_sameTx (h : EncoderInv s) (tx : t.tx = s.tx) (lines : t.lines = s.lines) : EncoderInv t :=
  ⟨tx ▸ h.pw, tx ▸ h.pi, tx ▸ h.pos_le, tx ▸ h.llen, tx ▸ h.armed, tx ▸ h.pos, tx ▸ lines ▸ h.gap, tx ▸ lines ▸ h.high,
    tx ▸ lines ▸ h.rest⟩

/-- An encoder at rest, its timer off and its lines high, needs legal settings and TX.pos in range only. -/
theorem encoderInv_atRest (pw : legalTime s.tx.pw = true) (pi : legalTime s.tx.pi = true) (pos_le : s.tx.pos ≤ 34)
    (inactive : s.tx.active = false) (off : s.tx.timer.armed = false) (phase : s.tx.phase = .assertPulse)
    (high : s.lines.d0 = true ∧ s.lines.d1 = true) : EncoderInv s := by
  refine ⟨pw, pi, pos_le, ?_, by rw [inactive, off], ?_, ?_, fun _ => high, fun _ => ⟨high.1, high.2, phase⟩⟩
  all_goals simp [inactive]

/-- An encoder about to drive a bit: active, its timer armed and its lines high (R174, R181). -/
theorem encoderInv_asserting (pw : legalTime s.tx.pw = true) (pi : legalTime s.tx.pi = true)
    (llen : s.tx.llen = s.tx.len) (pos : s.tx.pos ≤ s.tx.llen.bits) (active : s.tx.active = true)
    (armed : s.tx.timer.armed = true) (phase : s.tx.phase = .assertPulse)
    (high : s.lines.d0 = true ∧ s.lines.d1 = true) : EncoderInv s := by
  refine ⟨pw, pi, pos.trans (bits_le _), fun _ => llen, by rw [active, armed], fun _ => pos, ?_, fun _ => high, ?_⟩
  · simp [phase]
  · simp [active]

/-- After the assert branch one line is low and one more bit is out (R180). -/
theorem encoderInv_assertBit (h : EncoderInv s) (active : s.tx.active = true) (phase : s.tx.phase = .assertPulse)
    (more : s.tx.pos ≠ s.tx.llen.bits) : EncoderInv (assertBit s) := by
  obtain ⟨d0, d1⟩ := h.high phase
  have pos : s.tx.pos + 1 ≤ s.tx.llen.bits := by have := h.pos active; omega
  rw [assertBit_eq]
  refine ⟨h.pw, h.pi, pos.trans (bits_le _), h.llen, by simp [active], fun _ => pos, fun _ _ => ⟨?_, by simp⟩, nofun, ?_⟩
  · split <;> simp [d0, d1]
  · simp [active]

theorem encoderInv_pulse (h : EncoderInv s) (active : s.tx.active = true) : EncoderInv (pulse s) := by
  rcases pulse_cases s with ⟨phase, _, heq⟩ | ⟨phase, more, heq⟩ | ⟨_, heq⟩ <;> rw [heq]
  case inl => exact encoderInv_atRest h.pw h.pi h.pos_le rfl rfl phase (h.high phase)
  case inr.inl => exact encoderInv_assertBit h active phase more
  case inr.inr => exact encoderInv_asserting h.pw h.pi (h.llen active) (h.pos active) active rfl rfl ⟨rfl, rfl⟩

theorem encoderInv_start (h : EncoderInv s) (V : Word) : EncoderInv (start V s) :=
  encoderInv_asserting h.pw h.pi rfl (Nat.zero_le _) rfl rfl rfl ⟨rfl, rfl⟩

theorem encoderInv_reset : EncoderInv State.reset :=
  encoderInv_atRest (by decide) (by decide) (by decide) rfl rfl rfl ⟨rfl, rfl⟩

theorem Effect.encoderInv (e : Effect s i t) (h : EncoderInv s) : EncoderInv t := by
  cases e
  case txOpen => exact encoderInv_atRest h.pw h.pi (Nat.zero_le _) rfl rfl rfl ⟨rfl, rfl⟩
  case txClose => exact { h with }
  case txSetPw legal _ => exact { h with pw := legal }
  case txSetPi legal _ => exact { h with pi := legal }
  case txSetLen rest => exact { h with llen := by simp [rest] }
  case txWrite v _ _ | txWriteBuf v _ _ => exact encoderInv_sameTx (encoderInv_start h v) rfl rfl
  case evEdge l => exact encoderInv_sameTx h (edge_frame l s).1.tx (edge_frame l s).1.lines
  case rxTake c _ _ _ _ | evWakeRead c _ _ _ _ =>
    exact encoderInv_sameTx h (takeFrame_onlyRx c s).1.tx (takeFrame_onlyRx c s).1.lines
  case evTxTimer fires => exact encoderInv_pulse h (h.armed.2 (firesAt_iff.1 fires).1)
  case wakeTimeout => exact encoderInv_atRest h.pw h.pi h.pos_le rfl rfl rfl ⟨rfl, rfl⟩
  case evReset => exact encoderInv_sameTx encoderInv_reset rfl rfl
  all_goals exact encoderInv_sameTx h rfl rfl

/-! ## Who writes the sessions and the settings (R31 to R34, R45, R46) -/

/-- From s to t, both session bits and all six settings are as before. -/
structure SameSetup (s t : State) : Prop where
  rxOpened : t.rx.opened = s.rx.opened
  txOpened : t.tx.opened = s.tx.opened
  rxPw     : t.rx.pw = s.rx.pw
  rxPi     : t.rx.pi = s.rx.pi
  rxLen    : t.rx.len = s.rx.len
  txPw     : t.tx.pw = s.tx.pw
  txPi     : t.tx.pi = s.tx.pi
  txLen    : t.tx.len = s.tx.len

theorem edge_sameSetup (l : Bool) (s : State) : SameSetup s (edge l s) := by
  rcases edge_cases l s with heq | ⟨_, heq⟩ | ⟨_, heq⟩ | ⟨_, heq⟩ <;> rw [heq]
  all_goals exact ⟨rfl, rfl, rfl, rfl, rfl, rfl, rfl, rfl⟩

theorem timeout_sameSetup (s : State) : SameSetup s { s with rx := s.rx.timeout } := by
  by_cases complete : s.rx.count = s.rx.len.bits - 1
  · rw [timeout_complete complete]
    exact ⟨rfl, rfl, rfl, rfl, rfl, rfl, rfl, rfl⟩
  · rw [timeout_error complete]
    exact ⟨rfl, rfl, rfl, rfl, rfl, rfl, rfl, rfl⟩

theorem takeFrame_sameSetup (c : CallerId) (s : State) : SameSetup s (takeFrame c s) := by
  obtain ⟨r, f, e, heq, _⟩ := takeFrame_cases c s
  rw [heq]
  exact ⟨rfl, rfl, rfl, rfl, rfl, rfl, rfl, rfl⟩

theorem pulse_sameSetup (s : State) : SameSetup s (pulse s) := by
  rcases pulse_cases s with ⟨_, _, heq⟩ | ⟨_, _, heq⟩ | ⟨_, heq⟩ <;> rw [heq]
  case inr.inl => rw [assertBit_eq]; exact ⟨rfl, rfl, rfl, rfl, rfl, rfl, rfl, rfl⟩
  all_goals exact ⟨rfl, rfl, rfl, rfl, rfl, rfl, rfl, rfl⟩

/-! ## Who writes the decode state and the lines (R36 to R42, R53) -/

/-- An edge leaves the held frame and the error flag (R39, R40). -/
theorem edge_keeps_frame (l : Bool) (s : State) : (edge l s).rx.frame = s.rx.frame ∧ (edge l s).rx.err = s.rx.err := by
  rcases edge_cases l s with heq | ⟨_, heq⟩ | ⟨_, heq⟩ | ⟨_, heq⟩ <;> rw [heq]
  all_goals exact ⟨rfl, rfl⟩

/-- A reader leaves the accumulator, the counter, the time of the last edge and the deadline. -/
theorem takeFrame_keeps_decode (c : CallerId) (s : State) :
    (takeFrame c s).rx.sr = s.rx.sr ∧ (takeFrame c s).rx.count = s.rx.count ∧ (takeFrame c s).rx.last = s.rx.last ∧
      (takeFrame c s).rx.timer = s.rx.timer := by
  obtain ⟨r, f, e, heq, _⟩ := takeFrame_cases c s
  rw [heq]
  exact ⟨rfl, rfl, rfl, rfl⟩

/-! ## The initial state (R58) -/

theorem reset_callers_ready : ∀ x ∈ State.reset.callers, x.state = .ready := by
  intro x hx
  rcases List.mem_cons.1 hx with rfl | hx
  · rfl
  · rw [List.eq_of_mem_replicate hx]; rfl

/-- No caller waits in a write at reset. -/
theorem writerInv_reset : WriterInv State.reset where
  one := fun _ _ x _ _ _ _ _ hx _ hw _ => by
    rw [reset_callers_ready x (List.mem_of_getElem? hx)] at hw; cases hw
  served := fun _ x _ _ hx hw => by
    rw [reset_callers_ready x (List.mem_of_getElem? hx)] at hw; cases hw

theorem onTime_reset : OnTime State.reset :=
  ⟨nofun, nofun, fun _ _ _ _ _ => Nat.zero_le _, fun _ => Nat.zero_le _⟩

/-! ## The statements -/

/-- Settles O45: a case split over what an instruction can do (`Effect.decoderInv`); an illegal command only answers. -/
theorem stepKeepsDecoderInv : Obligations.StepKeepsDecoderInv := by
  unfold Obligations.StepKeepsDecoderInv
  intro s t hs hstep
  exact step_keeps (fun _ _ h => decoderInv_sameRx h rfl) (fun _ _ _ h he => (exec_effect he).decoderInv h)
    (fun _ _ _ h => decoderInv_sameRx h rfl) hs hstep

/-- Settles O46: a case split over what an instruction can do (`Effect.encoderInv`); an illegal command only answers. -/
theorem stepKeepsEncoderInv : Obligations.StepKeepsEncoderInv := by
  unfold Obligations.StepKeepsEncoderInv
  intro s t hs hstep
  exact step_keeps (fun _ _ h => encoderInv_sameTx h rfl rfl) (fun _ _ _ h he => (exec_effect he).encoderInv h)
    (fun _ _ _ h => encoderInv_sameTx h rfl rfl) hs hstep

/-- Settles O20: the deadline's only effect is `Rx.timeout`, whose frame is the accumulator (`timeout_frame_lt`). -/
theorem completedFrameFitsItsLength : Obligations.CompletedFrameFitsItsLength := by
  unfold Obligations.CompletedFrameFitsItsLength
  intro s t hs complete ht
  obtain ⟨_, ht⟩ := whenEnabled_next.1 ht
  cases ht
  exact timeout_frame_lt hs complete

/-- Settles O35: an open, a close or a SET writes its own field only, whose clause does not speak of it; every other
instruction leaves them all (`SameSetup`). -/
theorem onlyTheirOwnCommandsWriteSessionsAndSettings : Obligations.OnlyTheirOwnCommandsWriteSessionsAndSettings := by
  unfold Obligations.OnlyTheirOwnCommandsWriteSessionsAndSettings
  intro s t i hi hreset
  by_cases same : SameSetup s t
  · exact ⟨fun _ _ => same.rxOpened, fun _ _ => same.txOpened, fun _ => same.rxPw, fun _ => same.rxPi,
      fun _ => same.rxLen, fun _ => same.txPw, fun _ => same.txPi, fun _ => same.txLen⟩
  · cases exec_effect hi
    case evReset => exact absurd rfl hreset
    case rxOpen | rxClose | rxSetPw | rxSetPi | rxSetLen => simp [Rx.openSession]
    case txOpen | txClose | txSetPw | txSetPi | txSetLen => simp [openTx_eq]
    case rxTake | evWakeRead => exact absurd (takeFrame_sameSetup _ s) same
    case evEdge l => exact absurd (edge_sameSetup l s) same
    case evRxTimer => exact absurd (timeout_sameSetup s) same
    case evTxTimer => exact absurd (pulse_sameSetup s) same
    all_goals exact absurd ⟨rfl, rfl, rfl, rfl, rfl, rfl, rfl, rfl⟩ same

/-- Settles O36: the readers write the frame and the error flag, the edges the rest of the decode state. -/
theorem onlyDecoderStepsWriteFrameAndError : Obligations.OnlyDecoderStepsWriteFrameAndError := by
  unfold Obligations.OnlyDecoderStepsWriteFrameAndError
  intro s t i hi hreset hopen htimer
  cases exec_effect hi
  case rxOpen c _ _ => exact absurd rfl (hopen c)
  case evRxTimer => exact absurd rfl htimer
  case evReset => exact absurd rfl hreset
  case rxTake c nb size _ _ => exact ⟨fun read _ => absurd rfl (read c nb size), fun _ _ => takeFrame_keeps_decode c s⟩
  case evWakeRead c _ _ _ _ => exact ⟨fun _ wake => absurd rfl (wake c), fun _ _ => takeFrame_keeps_decode c s⟩
  case evEdge l =>
    refine ⟨fun _ _ => edge_keeps_frame l s, fun not0 not1 => ?_⟩
    cases l
    · exact absurd rfl not0
    · exact absurd rfl not1
  case evTxTimer => rw [(pulse_frame s).1.rx]; exact ⟨fun _ _ => ⟨rfl, rfl⟩, fun _ _ => ⟨rfl, rfl, rfl, rfl⟩⟩
  all_goals exact ⟨fun _ _ => ⟨rfl, rfl⟩, fun _ _ => ⟨rfl, rfl, rfl, rfl⟩⟩

/-- Settles O37: of the steps not named, the edges and the readers touch the decoder only, and the others no line. -/
theorem onlyTheEncoderDrivesTheLines : Obligations.OnlyTheEncoderDrivesTheLines := by
  unfold Obligations.OnlyTheEncoderDrivesTheLines
  intro s t i hi hreset htimer hopen hwrite hwriteBuf hwake
  cases exec_effect hi
  case evReset => exact absurd rfl hreset
  case evTxTimer => exact absurd rfl htimer
  case txOpen c _ _ => exact absurd rfl (hopen c)
  case txWrite c nb v _ _ => exact absurd rfl (hwrite c nb v)
  case txWriteBuf c nb size buf _ _ _ => exact absurd rfl (hwriteBuf c nb size buf)
  case wakeDone c _ _ _ _ _ _ | wakeTimeout c _ _ _ _ _ _ _ => exact absurd rfl (hwake c)
  case rxTake | evWakeRead => exact (takeFrame_onlyRx _ s).1.lines
  case evEdge l => exact (edge_frame l s).1.lines
  all_goals rfl

/-- Settles O1: each field by the definition of `State.reset`, the callers by `reset_callers_ready`. -/
theorem initialStateIsTheResetTable : Obligations.InitialStateIsTheResetTable := by
  unfold Obligations.InitialStateIsTheResetTable
  refine ⟨?_, ?_, rfl, reset_callers_ready, ?_, rfl⟩
  · decide
  · decide
  · simp [State.reset]

/-- Settles O44: the block is at rest in the initial state, and no caller waits. -/
theorem invariantsHoldAtReset : Obligations.InvariantsHoldAtReset :=
  ⟨decoderInv_reset, encoderInv_reset, writerInv_reset, onTime_reset⟩

end Sys2Proof.Machine
end

section
/-! The two subsystems (20_memory R86): a step of one of them neither writes nor reads the other, so steps of different
subsystems commute; and the commands that leave the same state when they are repeated (R80, R202, R204). -/

namespace Sys2Proof.Machine

variable {s t u a b : State} {c : CallerId} {i j : Instr}

/-! ## States that share one subsystem -/

/-- The state s with everything that belongs to the encoder, and the inputs, taken from u. -/
def State.withEncoderOf (s u : State) : State :=
  { s with tx := u.tx, lines := u.lines, txDraws := u.txDraws, inputs := u.inputs }

/-- The state s with everything that belongs to the decoder, and the inputs, taken from u. -/
def State.withDecoderOf (s u : State) : State := { s with rx := u.rx, rxDraws := u.rxDraws, inputs := u.inputs }

theorem eq_withEncoderOf (rx : u.rx = s.rx) (draws : u.rxDraws = s.rxDraws) (callers : u.callers = s.callers)
    (now : u.now = s.now) (par : u.par = s.par) : u = s.withEncoderOf u := by
  simp only [State.withEncoderOf, ← rx, ← draws, ← callers, ← now, ← par]

theorem eq_withDecoderOf (tx : u.tx = s.tx) (lines : u.lines = s.lines) (draws : u.txDraws = s.txDraws)
    (callers : u.callers = s.callers) (now : u.now = s.now) (par : u.par = s.par) : u = s.withDecoderOf u := by
  simp only [State.withDecoderOf, ← tx, ← lines, ← draws, ← callers, ← now, ← par]

/-! ## Outcomes that differ by a map of the next state

One lemma per operation a meaning is made of, so that the proof for an instruction follows its definition. -/

/-- The outcome o with its next state, if it has one, mapped by f. -/
def mapNext (f : State → State) : StepOutcome → StepOutcome
  | .next s => .next (f s)
  | .fault r => .fault r
  | .refused r => .refused r

section
variable {f : State → State} {o o' p p' : StepOutcome}

theorem ite_mapNext {q : Prop} [Decidable q] (ho : o' = mapNext f o) (hp : p' = mapNext f p) :
    (if q then o' else p') = mapNext f (if q then o else p) := by
  rw [ho, hp, apply_ite (mapNext f)]

theorem issue_mapNext (callers : t.callers = s.callers) (ho : o' = mapNext f o) :
    issue c t o' = mapNext f (issue c s o) := by
  unfold issue
  rw [callers]
  cases s.callers[c]? with
  | none => rfl
  | some x => exact ite_mapNext ho rfl

theorem ofCaller_mapNext {k k' : CallerState → StepOutcome} (callers : t.callers = s.callers)
    (hk : ∀ w, k' w = mapNext f (k w)) : ofCaller c t k' = mapNext f (ofCaller c s k) := by
  unfold ofCaller
  rw [callers]
  cases s.callers[c]? with
  | none => rfl
  | some x => exact hk x.state

theorem requireSession_mapNext {q : Bool} (ho : o' = mapNext f o) :
    requireSession q o' = mapNext f (requireSession q o) :=
  ite_mapNext ho rfl

theorem whenEnabled_mapNext {q : Bool} (ho : o' = mapNext f o) : whenEnabled q o' = mapNext f (whenEnabled q o) :=
  ite_mapNext ho rfl

theorem setting_mapNext {busy : Bool} {set set' : Option State} (callers : (f s).callers = s.callers)
    (finish : ∀ v r, (f v).finish c r = f (v.finish c r)) (hset : set' = set.map f) :
    setting c busy set' (f s) = mapNext f (setting c busy set s) := by
  subst hset
  refine issue_mapNext callers ?_
  cases set with
  | none => exact congrArg _ (finish s _)
  | some v => exact ite_mapNext (congrArg _ (finish s _)) (congrArg _ (finish v _))

/-- A pulse width or an interval is set where its value is legal. -/
theorem setTime_mapNext {busy legal : Bool} {v v' : State} (callers : (f s).callers = s.callers)
    (finish : ∀ v r, (f v).finish c r = f (v.finish c r)) (hv : v' = f v) :
    setting c busy (if legal then some v' else none) (f s) =
      mapNext f (setting c busy (if legal then some v else none) s) :=
  setting_mapNext callers finish (by rw [hv, apply_ite (Option.map f)]; rfl)

end

/-! ## A decoder step carries along whatever encoder it runs beside -/

theorem takeFrame_withEncoderOf (c : CallerId) (s u : State) :
    takeFrame c (s.withEncoderOf u) = (takeFrame c s).withEncoderOf u := by
  by_cases empty : s.rx.frame = 0
  · rw [takeFrame_empty empty, takeFrame_empty (s := s.withEncoderOf u) empty]; rfl
  · rw [takeFrame_frame empty, takeFrame_frame (s := s.withEncoderOf u) empty]; rfl

theorem edge_withEncoderOf (l : Bool) (s u : State) : edge l (s.withEncoderOf u) = (edge l s).withEncoderOf u := by
  obtain ⟨frame, callers⟩ := edge_frame l s
  rw [edge_congr (s := s) (u := s.withEncoderOf u) l rfl rfl rfl rfl]
  simp only [State.withEncoderOf, frame.now, frame.par, callers]

/-- A decoder step does the same beside any encoder, and leaves that encoder as it is (R86). -/
theorem exec_withEncoderOf (side : sideOf i = .decoder) (s u : State) :
    exec i (s.withEncoderOf u) = mapNext (·.withEncoderOf u) (exec i s) := by
  have take (c : CallerId) :
      .next (takeFrame c (s.withEncoderOf u)) = mapNext (·.withEncoderOf u) (.next (takeFrame c s)) :=
    congrArg _ (takeFrame_withEncoderOf c s u)
  cases i
  case rxOpen => exact issue_mapNext rfl (ite_mapNext rfl rfl)
  case rxClose | rxStrip => exact issue_mapNext rfl rfl
  case rxPoll | rxStatus => exact issue_mapNext rfl (requireSession_mapNext rfl)
  case rxRead c _ _ =>
    exact issue_mapNext rfl (requireSession_mapNext (ite_mapNext rfl (ite_mapNext (take c) (ite_mapNext rfl rfl))))
  case rxSetPw | rxSetPi => exact setTime_mapNext (f := (·.withEncoderOf u)) rfl (fun _ _ => rfl) rfl
  case rxSetLen =>
    exact setting_mapNext (f := (·.withEncoderOf u)) rfl (fun _ _ => rfl) (by rw [Option.map_map]; rfl)
  case evEdge0 => exact congrArg _ (edge_withEncoderOf false s u)
  case evEdge1 => exact congrArg _ (edge_withEncoderOf true s u)
  case evRxTimer => exact whenEnabled_mapNext rfl
  case evWakeRead c =>
    simp only [exec, execEvWakeRead]
    exact ofCaller_mapNext rfl fun _ => whenEnabled_mapNext (take c)
  all_goals cases side

/-! ## An encoder step carries along whatever decoder it runs beside -/

theorem transmit_withDecoderOf (c : CallerId) (nb : Bool) (V : Word) (n : Nat) (s u : State) :
    transmit c nb V n (s.withDecoderOf u) = mapNext (·.withDecoderOf u) (transmit c nb V n s) :=
  ite_mapNext rfl (ite_mapNext rfl rfl)

theorem pulse_withDecoderOf (s u : State) : pulse (s.withDecoderOf u) = (pulse s).withDecoderOf u := by
  obtain ⟨frame, callers⟩ := pulse_frame s
  rw [pulse_congr (s := s) (u := s.withDecoderOf u) rfl rfl rfl rfl rfl]
  simp only [State.withDecoderOf, frame.now, frame.par, callers]

/-- An encoder step does the same beside any decoder, and leaves that decoder as it is (R86). -/
theorem exec_withDecoderOf (side : sideOf i = .encoder) (s u : State) :
    exec i (s.withDecoderOf u) = mapNext (·.withDecoderOf u) (exec i s) := by
  cases i
  case txOpen => exact issue_mapNext rfl (ite_mapNext rfl rfl)
  case txClose => exact issue_mapNext rfl rfl
  case txWrite c nb v => exact issue_mapNext rfl (requireSession_mapNext (transmit_withDecoderOf c nb v 4 s u))
  case txWriteBuf c nb size buf =>
    refine issue_mapNext rfl (requireSession_mapNext (ite_mapNext rfl ?_))
    cases memRead buf size.toNat with
    | none => rfl
    | some bytes => exact transmit_withDecoderOf c nb (payloadValue bytes) size.toNat s u
  case txSetPw | txSetPi => exact setTime_mapNext (f := (·.withDecoderOf u)) rfl (fun _ _ => rfl) rfl
  case txSetLen =>
    exact setting_mapNext (f := (·.withDecoderOf u)) rfl (fun _ _ => rfl) (by rw [Option.map_map]; rfl)
  case evTxTimer => exact whenEnabled_mapNext (congrArg _ (pulse_withDecoderOf s u))
  case evWakeWrite =>
    simp only [exec, execEvWakeWrite]
    refine ofCaller_mapNext rfl fun w => ?_
    cases w with
    | ready | waitingRead => rfl
    | waitingWrite wrDue n => exact whenEnabled_mapNext (ite_mapNext rfl rfl)
  all_goals cases side

/-! ## Steps of different subsystems -/

theorem exec_next_withEncoderOf (side : sideOf i = .decoder) (u : State) (h : exec i s = .next t) :
    exec i (s.withEncoderOf u) = .next (t.withEncoderOf u) := by
  rw [exec_withEncoderOf side, h]; rfl

theorem exec_next_withDecoderOf (side : sideOf i = .encoder) (u : State) (h : exec i s = .next t) :
    exec i (s.withDecoderOf u) = .next (t.withDecoderOf u) := by
  rw [exec_withDecoderOf side, h]; rfl

/-- Run beside its own encoder, a decoder step answers the state it answered, with the encoder it began with. -/
theorem exec_onlyRx (side : sideOf i = .decoder) (h : exec i s = .next t) : OnlyRx s t := by
  have same : t = t.withEncoderOf s := Host.Outcome.next.inj (h.symm.trans (exec_next_withEncoderOf side s h))
  have now : t.now = s.now := (exec_effect h).now_eq (by rintro n rfl; cases side)
  have par : t.par = s.par := (exec_effect h).sameFrame.par
  rw [same]
  exact ⟨rfl, rfl, now, par, rfl, rfl⟩

/-- Run beside its own decoder, an encoder step answers the state it answered, with the decoder it began with. -/
theorem exec_onlyTx (side : sideOf i = .encoder) (h : exec i s = .next t) : OnlyTx s t := by
  have same : t = t.withDecoderOf s := Host.Outcome.next.inj (h.symm.trans (exec_next_withDecoderOf side s h))
  have now : t.now = s.now := (exec_effect h).now_eq (by rintro n rfl; cases side)
  have par : t.par = s.par := (exec_effect h).sameFrame.par
  rw [same]
  exact ⟨rfl, now, par, rfl, rfl⟩

/-- A decoder step and an encoder step that leave the callers as they are give the same state in either order. -/
theorem decoder_encoder_commute (hi : sideOf i = .decoder) (hj : sideOf j = .encoder) (ha : exec i s = .next a)
    (hb : exec j s = .next b) (aCallers : a.callers = s.callers) (bCallers : b.callers = s.callers) :
    ∃ u, exec j a = .next u ∧ exec i b = .next u := by
  have rx := exec_onlyRx hi ha
  have tx := exec_onlyTx hj hb
  have aEq : a = s.withDecoderOf a := eq_withDecoderOf rx.tx rx.lines rx.txDraws aCallers rx.now rx.par
  have bEq : b = s.withEncoderOf b := eq_withEncoderOf tx.rx tx.rxDraws bCallers tx.now tx.par
  have meet : b.withDecoderOf a = a.withEncoderOf b := by
    simp only [State.withDecoderOf, State.withEncoderOf, aCallers, bCallers, rx.now, tx.now, rx.par, tx.par,
      rx.inputs, tx.inputs]
  refine ⟨b.withDecoderOf a, ?_, ?_⟩
  · exact (congrArg (exec j) aEq).trans (exec_next_withDecoderOf hj a hb)
  · rw [meet]
    exact (congrArg (exec i) bEq).trans (exec_next_withEncoderOf hi b ha)

/-- An edge or the deadline is a step of the decoder that leaves the callers as they are. -/
theorem edge_or_deadline_callers (hi : i = .evEdge0 ∨ i = .evEdge1 ∨ i = .evRxTimer) (h : exec i s = .next t) :
    sideOf i = .decoder ∧ t.callers = s.callers := by
  rcases hi with rfl | rfl | rfl
  · cases h; exact ⟨rfl, (edge_frame false s).2⟩
  · cases h; exact ⟨rfl, (edge_frame true s).2⟩
  · obtain ⟨-, h⟩ := whenEnabled_next.1 h
    cases h; exact ⟨rfl, rfl⟩

/-! ## Commands issued twice (R80, R202, R204) -/

theorem finish_finish (s : State) (c : CallerId) (q r : Result) : (s.finish c q).finish c r = s.finish c r := by
  simp [State.finish]

/-- A command that ended in an answer ends in it again, if from there it answers the same and changes nothing else. -/
theorem issue_again {r : Result} {o : StepOutcome} (ready : s.isReady c = true) (callers : u.callers = s.callers)
    (ho : o = .next ((u.finish c r).finish c r)) : issue c (u.finish c r) o = .next (u.finish c r) := by
  have still : (u.finish c r).isReady c = true :=
    isReady_iff.2 ⟨some r, by simp [callers, isReady_lt ready]⟩
  rw [issue_of_ready still, ho, finish_finish]

/-- The function w writes a setting: it leaves the callers, writing again after the answer changes nothing, and neither
the write nor an answer moves the busy state of R207. -/
structure WritesSetting (busy : State → Bool) (w : State → State) : Prop where
  callers    : ∀ s, (w s).callers = s.callers
  again      : ∀ s c r, w ((w s).finish c r) = (w s).finish c r
  busyWrite  : ∀ s, busy (w s) = busy s
  busyAnswer : ∀ s c r, busy (s.finish c r) = busy s

theorem writesSetting_rx {g : Rx → Rx} (again : ∀ x, g (g x) = g x) (busy : ∀ x, (g x).midFrame = x.midFrame) :
    WritesSetting (·.rx.midFrame) fun s => { s with rx := g s.rx } :=
  ⟨fun _ => rfl, fun s _ _ => by simp [State.finish, again], fun s => busy s.rx, fun _ _ _ => rfl⟩

theorem writesSetting_tx {g : Tx → Tx} (again : ∀ x, g (g x) = g x) (busy : ∀ x, (g x).active = x.active) :
    WritesSetting (·.tx.active) fun s => { s with tx := g s.tx } :=
  ⟨fun _ => rfl, fun s _ _ => by simp [State.finish, again], fun s => busy s.tx, fun _ _ _ => rfl⟩

section
variable {busy : State → Bool}

/-- A SET repeated at once refuses again what it refused, and writes again what it wrote. -/
theorem setting_again {α : Type} {legal : Option α} {w : α → State → State} (hw : ∀ n, WritesSetting busy (w n))
    (h : setting c (busy s) (legal.map fun n => w n s) s = .next t) :
    setting c (busy t) (legal.map fun n => w n t) t = .next t := by
  obtain ⟨ready, ⟨illegal, rfl⟩ | ⟨v, hv, isBusy, rfl⟩ | ⟨v, hv, idle, rfl⟩⟩ := setting_next.1 h
  · rw [Option.map_eq_none_iff.1 illegal]
    exact issue_again ready rfl rfl
  · obtain ⟨n, rfl, rfl⟩ := Option.map_eq_some_iff.1 hv
    exact issue_again ready rfl (if_pos (((hw n).busyAnswer ..).trans isBusy))
  · obtain ⟨n, rfl, rfl⟩ := Option.map_eq_some_iff.1 hv
    have idle' : busy ((w n s).finish c (.bare .ok)) = false := by
      rw [(hw n).busyAnswer, (hw n).busyWrite, idle]
    exact issue_again ready ((hw n).callers s)
      ((if_neg (Bool.eq_false_iff.1 idle')).trans (congrArg (replyOk c) ((hw n).again ..)))

/-- A pulse width or an interval is written where its value is legal. -/
theorem setTime_again {legal : Bool} {w : State → State} (hw : WritesSetting busy w)
    (h : setting c (busy s) (if legal then some (w s) else none) s = .next t) :
    setting c (busy t) (if legal then some (w t) else none) t = .next t := by
  cases legal
  · exact setting_again (legal := none) (fun _ : Unit => hw) h
  · exact setting_again (legal := some ()) (fun _ => hw) h

end

/-! ## The statements -/

/-- Settles O39: a step of one subsystem commutes with exchanging the other (`exec_withEncoderOf` and
`exec_withDecoderOf`), and two states that agree on the one subsystem differ by such an exchange. -/
theorem subsystemsAreIndependent : Obligations.SubsystemsAreIndependent := by
  unfold Obligations.SubsystemsAreIndependent
  refine ⟨fun s t i hi => ⟨fun side => exec_onlyRx side hi, fun side => exec_onlyTx side hi⟩,
    fun s s' t i hi callers now par => ⟨fun side rx draws => ?_, fun side tx lines draws => ?_⟩⟩
  · rw [eq_withEncoderOf rx draws callers now par]
    exact ⟨_, exec_next_withEncoderOf side s' hi, rfl, rfl, rfl⟩
  · rw [eq_withDecoderOf tx lines draws callers now par]
    exact ⟨_, exec_next_withDecoderOf side s' hi, rfl, rfl, rfl, rfl⟩

/-- Settles O40: an edge or the deadline is a decoder step and the firing an encoder step, and neither moves a caller
(`decoder_encoder_commute`). -/
theorem edgesAndTimersCommute : Obligations.EdgesAndTimersCommute := by
  unfold Obligations.EdgesAndTimersCommute
  intro s a b i hi ha hb
  obtain ⟨side, aCallers⟩ := edge_or_deadline_callers hi ha
  have bCallers : b.callers = s.callers := by
    obtain ⟨-, h⟩ := whenEnabled_next.1 hb
    cases h
    exact (pulse_frame s).2
  exact decoder_encoder_commute side rfl ha hb aCallers bCallers

/-- Settles O41: a SET by `setting_again`; the other commands give, from the state they led to, the answer they gave. -/
theorem repeatedCommandLeavesTheSameState : Obligations.RepeatedCommandLeavesTheSameState := by
  unfold Obligations.RepeatedCommandLeavesTheSameState
  intro s t i hrep h
  cases i
  case rxPoll | rxStatus =>
    obtain ⟨ready, h⟩ := issue_next.1 h
    obtain ⟨opened, h⟩ := requireSession_next.1 h
    cases h
    exact issue_again ready rfl (requireSession_next.2 ⟨opened, rfl⟩)
  case rxStrip | rxClose | txClose =>
    obtain ⟨ready, h⟩ := issue_next.1 h
    cases h
    exact issue_again ready rfl rfl
  case rxSetPw _ a =>
    exact setTime_again (writesSetting_rx (g := fun x => { x with pw := a }) (fun _ => rfl) fun _ => rfl) h
  case rxSetPi _ a =>
    exact setTime_again (writesSetting_rx (g := fun x => { x with pi := a }) (fun _ => rfl) fun _ => rfl) h
  case rxSetLen =>
    exact setting_again (fun n => writesSetting_rx (g := fun x => { x with len := n }) (fun _ => rfl) fun _ => rfl) h
  case txSetPw _ a =>
    exact setTime_again (writesSetting_tx (g := fun x => { x with pw := a }) (fun _ => rfl) fun _ => rfl) h
  case txSetPi _ a =>
    exact setTime_again (writesSetting_tx (g := fun x => { x with pi := a }) (fun _ => rfl) fun _ => rfl) h
  case txSetLen =>
    exact setting_again (fun n => writesSetting_tx (g := fun x => { x with len := n }) (fun _ => rfl) fun _ => rfl) h
  all_goals exact hrep.elim

end Sys2Proof.Machine
end

section
/-! Encoding (30_encoding R90 to R99): a command word is its fields, the decoder gives each instruction its word back and
accepts the words of the table and no other, and the bits of a transmission stand in line order (R106 to R108). -/

namespace Sys2Proof.Machine

variable {c : CallerId} {r : CmdRecord} {i j : Instr} {cmd m : Word} {op code : Byte} {arg : Nat}

/-! ## A command word and its fields (R90, R94) -/

/-- The fields of R90 cover a command word: where its reserved bits are 0, the encoder builds it from the others. -/
theorem cmdWord_of_fields (res : reservedZero cmd = true) : cmdWord (opOf cmd) (nbOf cmd) (sizeOf4 cmd) = cmd := by
  obtain ⟨low, high⟩ : field 15 9 cmd = 0#7 ∧ field 31 20 cmd = 0#12 := by simpa [reservedZero] using res
  have nb : BitVec.ofBool (nbOf cmd) = cmd.extractLsb' 8 1 := by
    apply BitVec.eq_of_getLsbD_eq
    intro k hk
    obtain rfl : k = 0 := by omega
    simp [nbOf]
  have join (k n l : Nat) : cmd.extractLsb' (k + n) l ++ cmd.extractLsb' k n = cmd.extractLsb' k (l + n) :=
    BitVec.extractLsb'_append_extractLsb'_eq_extractLsb' rfl
  calc cmdWord (opOf cmd) (nbOf cmd) (sizeOf4 cmd)
      = cmd.extractLsb' 20 12 ++ cmd.extractLsb' 16 4 ++ cmd.extractLsb' 9 7 ++ cmd.extractLsb' 8 1 ++
          cmd.extractLsb' 0 8 := by rw [cmdWord, ← high, ← low, nb]; rfl
    _ = cmd.extractLsb' 0 32 := by rw [join 16 4, join 9 7, join 8 1, join 0 8]
    _ = cmd := BitVec.extractLsb'_eq_self

theorem field_and (hi lo : Nat) (v w : Word) : field hi lo (v &&& w) = field hi lo v &&& field hi lo w :=
  BitVec.extractLsb'_and

/-- A word that matches n under a mask which covers OP and the reserved bits agrees with n on these, and on the part of
SIZE that the mask covers (R94, R97). -/
theorem fields_of_match {n : Word} (op : opOf m = BitVec.allOnes 8) (low : field 15 9 m = BitVec.allOnes 7)
    (high : field 31 20 m = BitVec.allOnes 12) (h : cmd &&& m = n) :
    reservedZero cmd = reservedZero n ∧ opOf cmd = opOf n ∧ sizeOf4 cmd &&& sizeOf4 m = sizeOf4 n := by
  subst h
  refine ⟨?_, ?_, (field_and 19 16 ..).symm⟩
  · rw [reservedZero, reservedZero, field_and, field_and, low, high, BitVec.and_allOnes, BitVec.and_allOnes]
  · rw [opOf, opOf, field_and, ← opOf, ← opOf, op, BitVec.and_allOnes]

/-! ## Commands that use neither NB nor SIZE, and TX_WRITE (R94) -/

theorem plain_ok : plain cmd j = .ok i ↔ nbOf cmd = false ∧ sizeOf4 cmd = 0 ∧ j = i := by
  unfold plain
  split_ifs with hn hs <;> simp_all

theorem withNb_ok {f : Bool → Instr} : withNb cmd f = .ok i ↔ sizeOf4 cmd = 0 ∧ f (nbOf cmd) = i := by
  unfold withNb
  split_ifs with hs <;> simp_all

theorem plain_cmdWord (op : Byte) (i : Instr) : plain (cmdWord op false 0#4) i = .ok i :=
  plain_ok.2 ⟨nbOf_cmdWord .., sizeOf4_cmdWord .., rfl⟩

theorem withNb_cmdWord (op : Byte) (nb : Bool) (f : Bool → Instr) : withNb (cmdWord op nb 0#4) f = .ok (f nb) :=
  withNb_ok.2 ⟨sizeOf4_cmdWord .., by rw [nbOf_cmdWord]⟩

/-! ## What the decoder answers (R97, R98) -/

/-- The instruction i is a well-formed command of caller c whose command word is cmd. -/
structure Spells (c : CallerId) (cmd : Word) (i : Instr) : Prop where
  number : (encode i).number = cmd
  wf     : WellFormed i
  issuer : issuerOf i = some c

theorem spells_of_fields (res : reservedZero cmd = true) (hop : opOf cmd = op)
    (h : Spells c (cmdWord op (nbOf cmd) (sizeOf4 cmd)) i) : Spells c cmd i := by
  rwa [← hop, cmdWord_of_fields res] at h

theorem spells_of_plain (res : reservedZero cmd = true) (hop : opOf cmd = op) (h : plain cmd j = .ok i)
    (hj : Spells c (cmdWord op false 0) j) : Spells c cmd i := by
  obtain ⟨nb, size, rfl⟩ := plain_ok.1 h
  exact spells_of_fields res hop (by rwa [nb, size])

/-- The inversion of decodeCommand, arm by arm: the word of a decoded command is the one the encoder gives it. -/
theorem decodeCommand_spells (h : decodeCommand c r = .ok i) : Spells c r.cmd i := by
  unfold decodeCommand at h
  dsimp only at h
  obtain ⟨res, h⟩ | ⟨-, h⟩ := ite_eq_iff.1 h
  case inr => cases h
  case inl =>
    iterate 2
      obtain ⟨op, h⟩ | ⟨-, h⟩ := ite_eq_iff.1 h
      · exact spells_of_plain res op h ⟨rfl, rfl, rfl⟩
    -- RX_READ
    obtain ⟨op, h⟩ | ⟨-, h⟩ := ite_eq_iff.1 h
    · cases h
      exact spells_of_fields res op ⟨rfl, rfl, rfl⟩
    iterate 8
      obtain ⟨op, h⟩ | ⟨-, h⟩ := ite_eq_iff.1 h
      · exact spells_of_plain res op h ⟨rfl, rfl, rfl⟩
    -- TX_WRITE
    obtain ⟨op, h⟩ | ⟨-, h⟩ := ite_eq_iff.1 h
    · obtain ⟨size, rfl⟩ := withNb_ok.1 h
      exact spells_of_fields res op ⟨by rw [size]; rfl, rfl, rfl⟩
    -- TX_WRITE_BUF
    obtain ⟨op, h⟩ | ⟨-, h⟩ := ite_eq_iff.1 h
    · cases h
      exact spells_of_fields res op ⟨rfl, decide_eq_true (List.length_take_le ..), rfl⟩
    iterate 3
      obtain ⟨op, h⟩ | ⟨-, h⟩ := ite_eq_iff.1 h
      · exact spells_of_plain res op h ⟨rfl, rfl, rfl⟩
    cases h

/-- The inversion of decodeEvent. -/
theorem decodeEvent_ok (h : decodeEvent code arg = .ok i) :
    (encode i).number = code.setWidth 32 ∧ WellFormed i ∧ code ∈ eventCodes := by
  unfold decodeEvent at h
  split_ifs at h with k k k k k k k k k
  all_goals
    cases h
    rw [k]
    exact ⟨rfl, rfl, by decide⟩

theorem decodeEvent_of_listed (h : code ∈ eventCodes) : ∃ i, decodeEvent code arg = .ok i := by
  fin_cases h
  all_goals exact ⟨_, rfl⟩

/-! ## Legal and illegal command words (R97, R99) -/

/-- The rows of the table in two kinds: thirteen words with nothing free, and the three rows with NB or SIZE free. -/
theorem legalCommand_iff : legalCommand cmd = true ↔
    cmd ∈ ([0x01, 0x02, 0x04, 0x05, 0x06, 0x08, 0x09, 0x0A, 0x11, 0x12, 0x18, 0x19, 0x1A] : List Word) ∨
      cmd &&& 0xFFF0FEFF = 0x03 ∨ cmd &&& 0xFFFFFEFF = 0x13 ∨ cmd &&& 0xFFF0FEFF = 0x14 := by
  have full : cmd &&& 0xFFFFFFFF = cmd := BitVec.and_allOnes
  simp only [legalCommand, commandRows, List.any_append, List.any_cons, List.any_nil, full, Bool.or_eq_true,
    decide_eq_true_eq, Bool.false_eq_true, List.mem_cons, List.not_mem_nil]
  tauto

theorem decodeCommand_of_legal (h : legalCommand r.cmd = true) : ∃ i, decodeCommand c r = .ok i := by
  obtain ⟨cmd, a, b, buf⟩ := r
  rcases legalCommand_iff.1 h with word | read | write | writeBuf
  · simp only [List.mem_cons, List.not_mem_nil, or_false] at word
    rcases word with rfl | rfl | rfl | rfl | rfl | rfl | rfl | rfl | rfl | rfl | rfl | rfl | rfl
    all_goals simp [decodeCommand, reservedZero, opOf, nbOf, sizeOf4, field, plain]
  · obtain ⟨res, op, -⟩ := fields_of_match rfl rfl rfl read
    exact ⟨.rxRead c (nbOf cmd) (sizeOf4 cmd), by rw [decodeCommand, res, op]; rfl⟩
  · obtain ⟨res, op, size⟩ := fields_of_match rfl rfl rfl write
    refine ⟨.txWrite c (nbOf cmd) a, ?_⟩
    rw [decodeCommand, res, op]
    show withNb cmd (fun nb => .txWrite c nb a) = _
    exact withNb_ok.2 ⟨BitVec.and_allOnes.symm.trans size, rfl⟩
  · obtain ⟨res, op, -⟩ := fields_of_match rfl rfl rfl writeBuf
    exact ⟨.txWriteBuf c (nbOf cmd) (sizeOf4 cmd) (buf.take (sizeOf4 cmd).toNat), by rw [decodeCommand, res, op]; rfl⟩

/-- The word the encoder gives a command matches a row of the table, and R99 does not call it illegal. -/
theorem encode_legal (hi : issuerOf i = some c) :
    legalCommand (encode i).number = true ∧ ¬ IllegalWord (encode i).number.toNat := by
  unfold IllegalWord
  cases i <;> cases hi
  case rxRead nb size => simp only [encode, cmdInput, Input.number]; revert nb size; decide
  case txWrite nb v => simp only [encode, cmdInput, Input.number]; revert nb; decide
  case txWriteBuf nb size buf => simp only [encode, Input.number]; revert nb size; decide
  all_goals simp only [encode, cmdInput, Input.number]; decide

theorem decode_illegal (c : CallerId) (illegal : IllegalWord r.cmd.toNat) : ∃ e, decode (.command c r) = .error e := by
  rcases h : decode (.command c r) with e | i
  · exact ⟨e, rfl⟩
  · obtain ⟨number, -, issuer⟩ := decodeCommand_spells h
    exact absurd illegal (number ▸ (encode_legal issuer).2)

/-! ## The bits on the line (R104 to R108) -/

/-- A list of n + 2 values, by its ends and its middle. -/
theorem range_map_ends {α : Type} {f g : Nat → α} {n : Nat} {x y : α} (first : f 0 = x)
    (middle : ∀ k < n, f (k + 1) = g k) (last : f (n + 1) = y) :
    (List.range (n + 2)).map f = x :: (List.range n).map g ++ [y] := by
  have inner : (List.range n).map (f ∘ Nat.succ) = (List.range n).map g :=
    List.map_congr_left fun k hk => middle k (List.mem_range.1 hk)
  rw [List.range_succ, List.map_append, List.range_succ_eq_map, List.map_cons, List.map_map, inner, first,
    List.map_singleton, last]

@[simp] theorem bitAs_getElem {w k : Nat} (b : Bool) (h : k < w) : (bitAs w b)[k] = (decide (k = 0) && b) := by
  rcases k with _ | k <;> simp [bitAs]

theorem extractLsb'_low {v w k n : Nat} (x : BitVec v) (h : k + n ≤ w) :
    (x.extractLsb' 0 w).extractLsb' k n = x.extractLsb' k n := by
  apply BitVec.eq_of_getLsbD_eq
  intro l hl
  have inside : k + l < w := by omega
  simp [inside]

/-! R154, bit by bit. -/

theorem par26_top (v : BitVec 24) : (par26 v).getLsbD 25 = evenP (v.extractLsb' 12 12) := by simp [par26]

theorem par26_bottom (v : BitVec 24) : (par26 v).getLsbD 0 = oddP (v.extractLsb' 0 12) := by simp [par26]

theorem par26_middle (v : BitVec 24) {k : Nat} (h : k < 24) : (par26 v).getLsbD (k + 1) = v.getLsbD k := by
  have below : k + 1 < 25 := by omega
  have inside : k + 1 < 26 := by omega
  simp [par26, below, inside]

/-- R155, R176 for length 26: bit p sent is bit 25 − p of PAR26. -/
theorem txBit_payload26 (V : Word) {p : Nat} (h : p < 26) :
    txBit (payload26 V).1 (payload26 V).2 p = (par26 (V.extractLsb' 0 24)).getLsbD (25 - p) := by
  have word : p / 32 = 0 := by omega
  have inside : 31 - p % 32 < 32 := by omega
  have shifted : ¬ 31 - p % 32 < 6 := by omega
  have bit : 31 - p % 32 - 6 = 25 - p := by omega
  simp [txBit, payload26, word, inside, shifted, bit]

theorem lineBits_l26 (V : Word) : lineBits .l26 V = evenP (V.extractLsb' 12 12) ::
    ((List.range 24).map fun k => V.getLsbD (23 - k)) ++ [oddP (V.extractLsb' 0 12)] := by
  refine range_map_ends ?_ (fun k hk => ?_) ?_
  · rw [payload, txBit_payload26 V (by decide), par26_top, extractLsb'_low V (by decide)]
  · have bit : 25 - (k + 1) = 23 - k + 1 := by omega
    have low : 23 - k < 24 := by omega
    rw [payload, txBit_payload26 V (by omega), bit, par26_middle _ low]
    simp [low]
  · rw [payload, txBit_payload26 V (by decide), par26_bottom, extractLsb'_low V (by decide)]

/-- For length 34 the second word holds bit 0 of V and the odd parity, the first word the rest (R157). -/
theorem lineBits_l34 (V : Word) : lineBits .l34 V = evenP (V.extractLsb' 16 16) ::
    ((List.range 32).map fun k => V.getLsbD (31 - k)) ++ [oddP (V.extractLsb' 0 16)] := by
  refine range_map_ends ?_ (fun k hk => ?_) ?_
  · simp [payload, payload34, txBit]
  · obtain rfl | first : k = 31 ∨ k < 31 := by omega
    · simp [payload, payload34, txBit]
    · have word : (k + 1) / 32 = 0 := by omega
      have bit : 31 - (k + 1) % 32 = 30 - k := by omega
      have below : 30 - k < 31 := by omega
      have up : 1 + (30 - k) = 31 - k := by omega
      simp [payload, payload34, txBit, word, bit, below, up]
  · simp [payload, payload34, txBit]

/-! ## The statements -/

/-- Settles O5: each field of the word reads back as it was put in, and a well-formed buffer is not cut. -/
theorem decodeOfEncode : Obligations.DecodeOfEncode := by
  unfold Obligations.DecodeOfEncode
  intro i wf
  cases i
  case txWriteBuf c nb size buf =>
    have fits : buf.length ≤ size.toNat := of_decide_eq_true wf
    simp [encode, decode, decodeCommand, reservedZero_cmdWord, opOf_cmdWord, nbOf_cmdWord, sizeOf4_cmdWord,
      List.take_of_length_le fits]
  case evEdge0 | evEdge1 | evRxTimer | evTxTimer | evCancel | evWakeRead | evWakeWrite | evReset | evTime => rfl
  all_goals simp [encode, cmdInput, decode, decodeCommand, reservedZero_cmdWord, opOf_cmdWord, nbOf_cmdWord,
    sizeOf4_cmdWord, plain_cmdWord, withNb_cmdWord]

/-- Settles O3: an illegal word decodes to no instruction (`decode_illegal`), and rejecting it only answers its caller. -/
theorem illegalCommandReturnsInvalidArgument : Obligations.IllegalCommandReturnsInvalidArgument := by
  unfold Obligations.IllegalCommandReturnsInvalidArgument
  intro s c r rest hin ready illegal
  obtain ⟨e, he⟩ := decode_illegal c illegal
  refine ⟨({ s with inputs := rest } : State).finish c (bareResult .invalidArgument), ?_,
    ⟨rfl, rfl, rfl, rfl, rfl, rfl, rfl, rfl⟩, finish_answers rfl (isReady_lt ready)⟩
  simp only [step, hin, he, rejectInput, raise_eq, bare_eq]
  exact issue_of_ready ready

/-- Settles O4: a decoded command has the word of its row (`decodeCommand_spells`), and a word of a row takes the arm of
its OP (`decodeCommand_of_legal`); likewise the event codes. -/
theorem decoderAcceptsExactlyTheTable : Obligations.DecoderAcceptsExactlyTheTable := by
  unfold Obligations.DecoderAcceptsExactlyTheTable
  refine ⟨fun c r => ⟨?_, decodeCommand_of_legal⟩, fun code arg => ⟨?_, decodeEvent_of_listed⟩⟩
  · rintro ⟨i, h⟩
    obtain ⟨number, -, issuer⟩ := decodeCommand_spells h
    exact number ▸ (encode_legal issuer).1
  · rintro ⟨i, h⟩
    obtain ⟨-, -, listed⟩ := decodeEvent_ok h
    exact listed

/-- Settles O6, by the inversions of the two decoders. -/
theorem decodedInstructionKeepsItsWord : Obligations.DecodedInstructionKeepsItsWord := by
  unfold Obligations.DecodedInstructionKeepsItsWord
  rintro (⟨c, r⟩ | ⟨code, arg⟩) i h
  · obtain ⟨number, wf, -⟩ := decodeCommand_spells h
    exact ⟨number, wf⟩
  · obtain ⟨number, wf, -⟩ := decodeEvent_ok h
    exact ⟨number, wf⟩

/-- Settles O50, length by length. -/
theorem lineOrderOfAWrite : Obligations.LineOrderOfAWrite := fun V => ⟨lineBits_l26 V, lineBits_l34 V⟩

/-- Settles O7: nine fixed words, by running the decoder. -/
theorem specWordsDecode : Obligations.SpecWordsDecode := by
  unfold Obligations.SpecWordsDecode
  decide

end Sys2Proof.Machine
end

section
/-! The input decoder (41_input_decoder R121 to R138): what the consumer's commands and the wake of a reader answer, what
an edge does, and what a train of edges and the deadline make of a frame. -/

namespace Sys2Proof.Machine

variable {s t u : State} {c : CallerId} {i : Instr} {l nb : Bool} {size : BitVec 4} {o : StepOutcome}

/-! ## Commands that end at once -/

theorem finish_sameBlock (s : State) (c : CallerId) (r : Result) : SameBlock s (s.finish c r) :=
  ⟨rfl, rfl, rfl, rfl, rfl, rfl, rfl, rfl⟩

theorem suspend_sameBlock (s : State) (c : CallerId) (w : CallerState) : SameBlock s (s.suspend c w) :=
  ⟨rfl, rfl, rfl, rfl, rfl, rfl, rfl, rfl⟩

/-- A command that raises st ends with it (R10, R244). -/
theorem endsWith_of_raise {st : Status} (ready : s.isReady c = true) (h : exec i s = raise c st s) :
    EndsWith i c st s :=
  ⟨s.finish c (bareResult st), h, finish_sameBlock .., finish_answers rfl (isReady_lt ready)⟩

/-- A Ready caller's command that needs a session runs in an open one (R206). -/
theorem issue_of_open {opened : Bool} (ready : s.isReady c = true) (h : opened = true) :
    issue c s (requireSession opened o) = o := by
  rw [issue_of_ready ready, h]; rfl

/-! ## What a reader takes (R74, R130, R131) -/

theorem loWord_eq (F : DWord) : loWord F = BitVec.ofNat 32 F.toNat := rfl

theorem hiWord_eq (F : DWord) : hiWord F = BitVec.ofNat 32 (F.toNat / 2 ^ 32) := by
  rw [← Nat.shiftRight_eq_div_pow]; rfl

/-- Byte k is the k-th digit to base 256 (R73, R74). -/
theorem readBytes_eq (F : DWord) : readBytes F = eightBytes F := by
  refine List.map_congr_left fun k _ => ?_
  have digit : F.toNat / 256 ^ k = F.toNat >>> (8 * k) := by rw [Nat.shiftRight_eq_div_pow, Nat.pow_mul]
  rw [digit]; rfl

theorem readResult_eq (F : DWord) : readResult F = frameResult F := by
  rw [readResult, loWord_eq, hiWord_eq, readBytes_eq]; rfl

/-- From s to t, caller c is given the result r and the decoder becomes rx; nothing else changes. -/
def Hands (c : CallerId) (r : Result) (rx : Rx) (s t : State) : Prop :=
  t.rx = rx ∧ OnlyRx s t ∧ t.rxDraws = s.rxDraws ∧ Answers c r s t

/-- A held frame is handed over and cleared; an error beside it stays. -/
theorem takeFrame_hands_frame (there : c < s.callers.length) (h : s.rx.frame ≠ 0) :
    Hands c (frameResult s.rx.frame) { s.rx with frame := 0 } s (takeFrame c s) := by
  rw [takeFrame_frame h, readResult_eq]
  exact ⟨rfl, ⟨rfl, rfl, rfl, rfl, rfl, rfl⟩, rfl, finish_answers rfl there⟩

/-- With no frame the reader gets the empty result of a framing error, which is cleared. -/
theorem takeFrame_hands_empty (there : c < s.callers.length) (h : s.rx.frame = 0) :
    Hands c ⟨.ok, 0, 0, 8, [0, 0, 0, 0, 0, 0, 0, 0]⟩ { s.rx with err := false } s (takeFrame c s) := by
  rw [takeFrame_empty h]
  exact ⟨rfl, ⟨rfl, rfl, rfl, rfl, rfl, rfl⟩, rfl, finish_answers rfl there⟩

theorem unreadable_iff {r : Rx} : r.readable = false ↔ r.frame = 0 ∧ r.err = false := by
  simp [Rx.readable, Rx.unread]

/-! ## RX_READ, in the order of its checks (R130, R243) -/

section
variable (ready : s.isReady c = true) (opened : s.rx.opened = true)
include ready opened

theorem exec_rxRead_short (short : size.toNat < 8) : exec (.rxRead c nb size) s = raise c .invalidArgument s :=
  (issue_of_open ready opened).trans (if_pos (by simp [legalReadSize, short]))

theorem exec_rxRead_of_legal (legal : 8 ≤ size.toNat) : exec (.rxRead c nb size) s =
    if s.rx.readable then .next (takeFrame c s)
    else if nb then raise c .wouldBlock s
    else .next (s.suspend c .waitingRead) :=
  (issue_of_open ready opened).trans (if_neg (by simp [legalReadSize, legal]))

theorem exec_rxRead_take (legal : 8 ≤ size.toNat) (readable : s.rx.frame ≠ 0 ∨ s.rx.err = true) :
    exec (.rxRead c nb size) s = .next (takeFrame c s) :=
  (exec_rxRead_of_legal ready opened legal).trans (if_pos (readable_iff.2 readable))

theorem exec_rxRead_empty (legal : 8 ≤ size.toNat) (frame : s.rx.frame = 0) (err : s.rx.err = false) :
    exec (.rxRead c nb size) s = if nb then raise c .wouldBlock s else .next (s.suspend c .waitingRead) := by
  rw [exec_rxRead_of_legal ready opened legal, unreadable_iff.2 ⟨frame, err⟩]; rfl

end

/-! ## Events of a waiting caller (R131, R205) -/

theorem exec_evCancel_of_waiting {x : Caller} (hx : s.callers[c]? = some x) (hw : x.state.isWaiting = true) :
    exec (.evCancel c) s = .next (s.finish c (bareResult .interrupted)) := by
  rw [exec, execEvCancel, ofCaller_next]
  exact ⟨x, hx, whenEnabled_next.2 ⟨hw, rfl⟩⟩

theorem isReader_iff {w : CallerState} : w.isReader = true ↔ w = .waitingRead := by
  cases w <;> simp [CallerState.isReader]

theorem exec_evWakeRead {x : Caller} (hx : s.callers[c]? = some x) :
    exec (.evWakeRead c) s = whenEnabled (x.state.isReader && s.rx.readable) (.next (takeFrame c s)) := by
  simp only [exec, execEvWakeRead, ofCaller, hx]

theorem exec_evWakeRead_take {x : Caller} (hx : s.callers[c]? = some x) (reads : x.state = .waitingRead)
    (readable : s.rx.frame ≠ 0 ∨ s.rx.err = true) : exec (.evWakeRead c) s = .next (takeFrame c s) := by
  rw [exec_evWakeRead hx, isReader_iff.2 reads, readable_iff.2 readable]; rfl

/-! ## RX_STRIP on numbers (R109, R134) -/

/-- A[24:1]: the frame without its two parity bits. -/
theorem stripped_l26_toNat (a b : Word) : (stripped .l26 a b).toNat = a.toNat / 2 % 2 ^ 24 := by
  have fits : a.toNat / 2 % 2 ^ 24 < 2 ^ 32 := (Nat.mod_lt _ (by decide)).trans (by decide)
  rw [stripped, BitVec.toNat_setWidth, BitVec.extractLsb'_toNat, Nat.shiftRight_one, Nat.mod_eq_of_lt fits]

/-- B[0]:A[31:1]: the two parts of the disjunction have no bit in common. -/
theorem stripped_l34_toNat (a b : Word) : (stripped .l34 a b).toNat = b.toNat % 2 * 2 ^ 31 + a.toNat / 2 := by
  have low : a.toNat / 2 < 2 ^ 31 := by omega
  have top : b.toNat % 2 * 2 ^ 31 < 2 ^ 32 := by omega
  have bit : (b &&& 1).toNat = b.toNat % 2 := Nat.and_one_is_mod _
  rw [stripped, BitVec.toNat_or, BitVec.toNat_shiftLeft, BitVec.toNat_ushiftRight, bit, Nat.shiftRight_one,
    Nat.shiftLeft_eq, Nat.mod_eq_of_lt top, ← Nat.shiftLeft_eq, Nat.shiftLeft_add_eq_or_of_lt low]

/-! ## Edges and trains of edges (R103, R121 to R128, R138) -/

/-- The first edge of a frame as one record (R122, R126, R127). -/
theorem firstEdge_rx (l : Bool) (s : State) : (firstEdge l s).rx =
    { s.rx with last := s.now, sr := BitVec.ofNat 64 (2 * s.rx.sr.toNat + l.toNat), count := min (s.rx.count + 1) 127,
                timer := ⟨true, s.now + (s.rx.pw.toNat + s.rx.pi.toNat) * s.rx.len.bits +
                  ({ s with rx := { s.rx with last := s.now } } : State).latency .rx⟩ } :=
  shiftIn_eq ..

/-- An accepted later edge as one record (R125, R127). -/
theorem laterEdge_eq (l : Bool) (s : State) : laterEdge l s = { s with rx :=
    { s.rx with last := s.now, sr := BitVec.ofNat 64 (2 * s.rx.sr.toNat + l.toNat),
                count := min (s.rx.count + 1) 127 } } :=
  congrArg (fun r => { s with rx := r }) (shiftIn_eq ..)

/-- The decoder r once the bits bs of a frame are in, in a session that began IDLE as r₀: the count saturates, the
settings and the held frame stay. -/
structure Holds (r₀ : Rx) (bs : List Bool) (r : Rx) : Prop where
  opened : r.opened = true
  len    : r.len = r₀.len
  frame  : r.frame = r₀.frame
  sr     : r.sr = BitVec.ofNat 64 (spelled bs)
  count  : r.count = min ((bs.length : Int) - 1) 127

theorem spelled_append (bs : List Bool) (b : Bool) : spelled (bs ++ [b]) = 2 * spelled bs + b.toNat := by
  simp [spelled]

/-- One bit more, whatever becomes of the time of the last edge and of the deadline (R127). -/
theorem holds_shiftIn {r₀ r : Rx} {bs : List Bool} (h : Holds r₀ bs r) (l : Bool) (n : Nat) (T : Timer) :
    Holds r₀ (bs ++ [l]) (({ r with last := n, timer := T } : Rx).shiftIn l) := by
  rw [shiftIn_eq]
  refine ⟨h.opened, h.len, h.frame, ?_, ?_⟩
  · apply BitVec.eq_of_toNat_eq
    simp only [h.sr, spelled_append, BitVec.toNat_ofNat]
    omega
  · simp only [h.count, List.length_append, List.length_singleton]
    omega

/-- An accepted edge, first or later, brings its bit in (R122, R125). -/
theorem holds_edge_of_accepted {r₀ : Rx} {bs : List Bool} (h : Holds r₀ bs s.rx) (ok : Accepted s.rx s.now) :
    Holds r₀ (bs ++ [l]) (edge l s).rx := by
  by_cases first : s.rx.count = -1
  · rw [edge_first h.opened first]
    exact holds_shiftIn h ..
  · obtain ⟨-, late, soon⟩ := ok.resolve_left first
    rw [edge_later h.opened first late soon]
    exact holds_shiftIn h ..

/-- A train brings the bits of its accepted edges in, one after the other; its glitches change nothing (R123). -/
theorem holds_train {r₀ : Rx} {es : List (Nat × Bool)} (train : Train s es u) :
    ∀ bs, Holds r₀ bs s.rx → Holds r₀ (bs ++ es.map Prod.snd) u.rx := by
  induction train with
  | nil s => intro bs h; rwa [List.map_nil, List.append_nil]
  | @cons s t u n b es ok here rest ih =>
    intro bs h
    rw [exec_edgeOf] at here
    cases here
    have one : Holds r₀ (bs ++ [b]) (edge b { s with now := n }).rx := holds_edge_of_accepted h ok
    rw [List.map_cons, ← List.singleton_append, ← List.append_assoc]
    exact ih _ one
  | @glitch s t u n b es soon here rest ih =>
    intro bs h
    obtain ⟨busy, -, soon⟩ := soon
    rw [exec_edgeOf, edge_glitch (s := { s with now := n }) h.opened busy soon] at here
    cases here
    exact ih bs h

/-- A frame is complete when exactly RX.len bits are in: the saturated count is out of reach (R36, R128). -/
theorem holds_complete_iff {r₀ r : Rx} {bs : List Bool} (h : Holds r₀ bs r) :
    r.count = r.len.bits - 1 ↔ bs.length = r₀.len.bits := by
  have short := bits_le r₀.len
  rw [h.count, h.len]
  omega

theorem exec_evRxTimer_next : exec .evRxTimer s = .next t ↔
    s.rx.timer.firesAt s.now = true ∧ t = { s with rx := s.rx.timeout } := by
  rw [exec, execEvRxTimer, whenEnabled_next, Host.Outcome.next.injEq, eq_comm (a := t)]

/-! ## The statements -/

/-- Settles O21: a train shifts its bits in (`holds_train`), and the deadline asks whether they are RX.len
(`holds_complete_iff`). -/
theorem frameOutcomeByEdgeCount : Obligations.FrameOutcomeByEdgeCount := by
  unfold Obligations.FrameOutcomeByEdgeCount
  intro s u v es opened idle empty _ train fires
  have start : Holds s.rx [] s.rx := ⟨opened, rfl, rfl, empty, idle⟩
  have held : Holds s.rx (es.map Prod.snd) u.rx := holds_train train [] start
  have complete := holds_complete_iff held
  rw [List.length_map] at complete
  obtain ⟨-, rfl⟩ := exec_evRxTimer_next.1 fires
  by_cases k : es.length = s.rx.len.bits
  · rw [timeout_complete (r := u.rx) (complete.2 k)]
    exact ⟨held.sr, rfl, rfl, fun _ => ⟨held.sr, rfl⟩, fun other => absurd k other⟩
  · rw [timeout_error (r := u.rx) (mt complete.1 k)]
    exact ⟨held.sr, rfl, rfl, fun same => absurd same k, fun _ => ⟨held.frame, rfl⟩⟩

/-- Settles O10, check by check in R243's order; a caller that waits can be cancelled. -/
theorem rxReadReturnsFrameErrorOrWaits : Obligations.RxReadReturnsFrameErrorOrWaits := by
  unfold Obligations.RxReadReturnsFrameErrorOrWaits
  intro s c nb size ready opened
  have there := isReady_lt ready
  refine ⟨fun short => ?_, fun legal frame => ?_, fun legal frame err => ?_, fun legal frame err hnb => ?_,
    fun legal frame err hnb => ?_⟩
  · exact endsWith_of_raise ready (exec_rxRead_short ready opened short)
  · exact ⟨_, exec_rxRead_take ready opened legal (.inl frame), takeFrame_hands_frame there frame⟩
  · exact ⟨_, exec_rxRead_take ready opened legal (.inr err), takeFrame_hands_empty there frame⟩
  · subst hnb
    exact endsWith_of_raise ready (exec_rxRead_empty ready opened legal frame err)
  · subst hnb
    have waits : Waits c .waitingRead s (s.suspend c .waitingRead) := suspend_waits rfl there
    exact ⟨_, _, exec_rxRead_empty ready opened legal frame err, suspend_sameBlock .., waits,
      exec_evCancel_of_waiting waits.waiting rfl, finish_answers rfl (waits.length ▸ there)⟩

/-- Settles O18, branch by branch of R121. -/
theorem edgeIsFirstGlitchGapOrAccepted : Obligations.EdgeIsFirstGlitchGapOrAccepted := by
  unfold Obligations.EdgeIsFirstGlitchGapOrAccepted
  intro s l
  simp only [exec_edgeOf, Host.Outcome.next.injEq]
  refine ⟨edge_closed, fun opened idle => ?_, fun opened busy _ => ⟨edge_glitch opened busy, edge_gap opened busy,
    fun late soon => ?_⟩⟩
  · obtain ⟨frame, callers⟩ := edge_frame l s
    have rx := (congrArg State.rx (edge_first (l := l) opened idle)).trans (firstEdge_rx l s)
    have latency := latency_le .rx { s with rx := { s.rx with last := s.now } }
    refine ⟨_, rfl, frame, callers, ?_⟩
    rw [rx, idle]
    exact ⟨rfl, rfl, Nat.le_add_right .., Nat.add_le_add_left latency _⟩
  · rw [edge_later opened busy late soon, laterEdge_eq]

/-- Settles O19: a firing that is armed and due is `Rx.timeout`, by its two outcomes; any other is refused. -/
theorem deadlineCompletesOrErrs : Obligations.DeadlineCompletesOrErrs := by
  unfold Obligations.DeadlineCompletesOrErrs
  intro s
  refine ⟨fun armed due => ?_, fun off => ?_⟩
  · rw [exec_evRxTimer_of_due armed due]
    exact ⟨fun complete => by rw [timeout_complete complete]; rfl, fun other => by rw [timeout_error other]; rfl⟩
  · have silent : s.rx.timer.firesAt s.now = false := by
      rw [Bool.eq_false_iff, Ne, firesAt_iff]
      rintro ⟨armed, due⟩
      rcases off with disarmed | early
      · rw [armed] at disarmed; cases disarmed
      · exact early due
    rw [exec, execEvRxTimer, silent]; rfl

/-- Settles O26: the wake takes what an RX_READ would (`takeFrame`), and is disabled where the caller does not read or
nothing is readable. -/
theorem wakeReadCompletesAWaitingRead : Obligations.WakeReadCompletesAWaitingRead := by
  unfold Obligations.WakeReadCompletesAWaitingRead
  intro s c x hx
  have there : c < s.callers.length := (List.getElem?_eq_some_iff.1 hx).1
  refine ⟨fun reads frame => ?_, fun reads frame err => ?_, fun disabled => ?_⟩
  · exact ⟨_, exec_evWakeRead_take hx reads (.inl frame), takeFrame_hands_frame there frame⟩
  · exact ⟨_, exec_evWakeRead_take hx reads (.inr err), takeFrame_hands_empty there frame⟩
  · rw [exec_evWakeRead hx]
    rcases disabled with other | empty
    · rw [Bool.eq_false_iff.2 (mt isReader_iff.1 other)]; rfl
    · rw [unreadable_iff.2 empty, Bool.and_false]; rfl

/-- Settles O11: both commands reply `readiness`, in which R0 is 1 exactly when RX.frame is nonzero. -/
theorem pollAndStatusReportTheUnreadFrame : Obligations.PollAndStatusReportTheUnreadFrame := by
  unfold Obligations.PollAndStatusReportTheUnreadFrame
  intro s c i hi ready opened
  have runs : exec i s = reply c (readiness s) s := by
    rcases hi with rfl | rfl
    · exact issue_of_open ready opened
    · exact issue_of_open ready opened
  have answer : readiness s = ⟨.ok, if s.rx.frame = 0 then 0 else 1, 0, 0, []⟩ := by
    by_cases empty : s.rx.frame = 0 <;> simp [readiness, valueResult, Rx.unread, empty]
  exact ⟨_, answer ▸ runs, finish_sameBlock .., finish_answers rfl (isReady_lt ready)⟩

/-- Settles O12, length by length; the command is issued without a session. -/
theorem rxStripDropsTheParityBits : Obligations.RxStripDropsTheParityBits := by
  unfold Obligations.RxStripDropsTheParityBits
  intro s c a b ready
  refine ⟨_, stripped s.rx.len a b, issue_of_ready ready, finish_sameBlock .., finish_answers rfl (isReady_lt ready), ?_⟩
  cases s.rx.len
  case l26 => exact stripped_l26_toNat a b
  case l34 => exact stripped_l34_toNat a b

end Sys2Proof.Machine
end

section
/-! The parity computer (42_parity R150 to R161): the parity bits complete the count of ones, a frame is its value
between its two parity bits, and a frame sent, shifted in and stripped gives the value back. -/

namespace Sys2Proof.Machine

/-! ## The parity bits (R151, R152) -/

theorem countP_range_eq_sum (f : Nat → Bool) (n : Nat) : (List.range n).countP f = ∑ i ∈ Finset.range n, (f i).toNat := by
  induction n with
  | zero => rfl
  | succ n ih =>
    rw [List.range_succ, List.countP_append, ih, List.countP_singleton, Finset.sum_range_succ]
    cases f n <;> rfl

theorem popcount_eq_sum {w : Nat} (x : BitVec w) : popcount x = ∑ i ∈ Finset.range w, (x.getLsbD i).toNat :=
  countP_range_eq_sum ..

theorem popcount_extractLsb' {w : Nat} (x : BitVec w) (k n : Nat) :
    popcount (x.extractLsb' k n) = ∑ i ∈ Finset.range n, (x.getLsbD (k + i)).toNat := by
  rw [popcount_eq_sum]
  refine Finset.sum_congr rfl fun i hi => ?_
  simp [Finset.mem_range.1 hi]

theorem evenP_toNat {w : Nat} (x : BitVec w) : (evenP x).toNat = popcount x % 2 := by
  rcases Nat.mod_two_eq_zero_or_one (popcount x) with h | h <;> simp [evenP, h]

theorem oddP_toNat {w : Nat} (x : BitVec w) : (oddP x).toNat = 1 - popcount x % 2 := by
  rcases Nat.mod_two_eq_zero_or_one (popcount x) with h | h <;> simp [oddP, h]

theorem popcount_add_evenP {w : Nat} (x : BitVec w) : (popcount x + (evenP x).toNat) % 2 = 0 := by
  rw [evenP_toNat]; omega

theorem popcount_add_oddP {w : Nat} (x : BitVec w) : (popcount x + (oddP x).toNat) % 2 = 1 := by
  rw [oddP_toNat]; omega

/-! ## A frame: a value between its parity bits (R154, R157) -/

/-- The value x with the bit ep on top of it and the bit op below it. -/
def framed {w : Nat} (ep : Bool) (x : BitVec w) (op : Bool) : BitVec (w + 2) := (x.cons ep).concat op

section
variable {w n : Nat} (ep op : Bool) (x : BitVec w)

@[simp] theorem framed_top : (framed ep x op).getLsbD (w + 1) = ep := by
  simp [framed, BitVec.getElem_cons]

@[simp] theorem framed_bottom : (framed ep x op).getLsbD 0 = op := by simp [framed]

theorem framed_middle {k : Nat} (h : k < w) : (framed ep x op).getLsbD (k + 1) = x.getLsbD k := by
  simp [framed, BitVec.getLsbD_cons, h.ne]

theorem framed_toNat : (framed ep x op).toNat = 2 ^ (w + 1) * ep.toNat + 2 * x.toNat + op.toNat := by
  rw [framed, BitVec.toNat_concat, BitVec.toNat_cons', Nat.shiftLeft_eq]
  ring

/-- The upper half of the value and the bit on top, which is its even parity (R160, R161). -/
theorem framed_upper_even (x : BitVec (n + n)) :
    (∑ i ∈ Finset.range (n + 1), ((framed (evenP (x.extractLsb' n n)) x op).getLsbD (n + 1 + i)).toNat) % 2 = 0 := by
  have half : ∑ i ∈ Finset.range n, ((framed (evenP (x.extractLsb' n n)) x op).getLsbD (n + 1 + i)).toNat =
      popcount (x.extractLsb' n n) := by
    rw [popcount_extractLsb']
    refine Finset.sum_congr rfl fun i hi => ?_
    rw [Nat.add_right_comm n 1 i, framed_middle _ _ _ (Nat.add_lt_add_left (Finset.mem_range.1 hi) n)]
  rw [Finset.sum_range_succ, half, Nat.add_right_comm n 1 n, framed_top]
  exact popcount_add_evenP _

/-- The lower half of the value and the bit below it, which is its odd parity (R160, R161). -/
theorem framed_lower_odd (x : BitVec (n + n)) :
    (∑ i ∈ Finset.range (n + 1), ((framed ep x (oddP (x.extractLsb' 0 n))).getLsbD i).toNat) % 2 = 1 := by
  have half : ∑ i ∈ Finset.range n, ((framed ep x (oddP (x.extractLsb' 0 n))).getLsbD (i + 1)).toNat =
      popcount (x.extractLsb' 0 n) := by
    rw [popcount_extractLsb']
    refine Finset.sum_congr rfl fun i hi => ?_
    rw [framed_middle _ _ _ (Nat.lt_add_right n (Finset.mem_range.1 hi)), Nat.zero_add]
  rw [Finset.sum_range_succ', half, framed_bottom]
  exact popcount_add_oddP _

end

/-- R154: `par26_top`, `par26_middle` and `par26_bottom` together. -/
theorem par26_eq_framed (v : BitVec 24) :
    par26 v = framed (evenP (v.extractLsb' 12 12)) v (oddP (v.extractLsb' 0 12)) := by
  apply BitVec.eq_of_getLsbD_eq
  intro i hi
  obtain rfl | rfl | ⟨low, up⟩ : i = 0 ∨ i = 25 ∨ i - 1 < 24 ∧ i - 1 + 1 = i := by omega
  · rw [par26_bottom, framed_bottom]
  · rw [par26_top, framed_top]
  · rw [← up, par26_middle v low, framed_middle _ _ _ low]

/-! ## The frame received (R105, R127) -/

theorem spelled_testBits (n x : Nat) : spelled ((List.range n).map fun k => x.testBit (n - 1 - k)) = x % 2 ^ n := by
  induction n generalizing x with
  | zero => simp [spelled, Nat.mod_one]
  | succ n ih =>
    have upper : (List.range n).map (fun k => x.testBit (n - k)) =
        (List.range n).map fun k => (x / 2).testBit (n - 1 - k) := by
      refine List.map_congr_left fun k hk => ?_
      have inside : k < n := List.mem_range.1 hk
      rw [← Nat.testBit_succ, show (n - 1 - k).succ = n - k by omega]
    rw [List.range_succ, List.map_append, List.map_singleton, spelled_append, Nat.add_sub_cancel, upper, ih, Nat.sub_self,
      Nat.toNat_testBit, pow_zero, Nat.div_one, pow_succ', Nat.mod_mul, Nat.add_comm]

/-- The bits of a value, highest first, spell the value. -/
theorem spelled_bits {w : Nat} (x : BitVec w) : spelled ((List.range w).map fun k => x.getLsbD (w - 1 - k)) = x.toNat :=
  (spelled_testBits w x.toNat).trans (Nat.mod_eq_of_lt x.isLt)

theorem spelled_lineBits_l26 (V : Word) : spelled (lineBits .l26 V) = (par26 (V.extractLsb' 0 24)).toNat := by
  rw [← spelled_bits]
  exact congrArg spelled (List.map_congr_left fun p hp => txBit_payload26 V (List.mem_range.1 hp))

theorem spelled_lineBits_l34 (V : Word) :
    spelled (lineBits .l34 V) = (framed (evenP (V.extractLsb' 16 16)) V (oddP (V.extractLsb' 0 16))).toNat := by
  rw [lineBits_l34, ← spelled_bits]
  refine congrArg spelled (Eq.symm (range_map_ends (framed_top ..) (fun k hk => ?_) (framed_bottom ..)))
  rw [show 32 + 2 - 1 - (k + 1) = 31 - k + 1 by omega, framed_middle _ _ _ (by omega)]

/-- Bits shifted into a zero accumulator leave there the number they spell (R127). -/
theorem foldl_shiftIn_sr {r : Rx} (empty : r.sr = 0) (bs : List Bool) :
    (bs.foldl (fun r b => r.shiftIn b) r).sr = BitVec.ofNat 64 (spelled bs) := by
  induction bs using List.reverseRecOn with
  | nil => exact empty
  | append_singleton bs b ih =>
    rw [List.foldl_append, List.foldl_cons, List.foldl_nil, shiftIn_eq, ih, spelled_append]
    apply BitVec.eq_of_toNat_eq
    simp only [BitVec.toNat_ofNat]
    omega

/-! ## The statements -/

/-- Settles O48: `popcount` is the sum of the bits. -/
theorem parityBitsCompleteTheCount : Obligations.ParityBitsCompleteTheCount := by
  unfold Obligations.ParityBitsCompleteTheCount
  intro w x
  rw [← popcount_eq_sum]
  exact ⟨popcount_add_evenP x, popcount_add_oddP x⟩

/-- Settles O49: PAR26 is a frame (`par26_eq_framed`), and its lower half holds an odd number of ones. -/
theorem par26Layout : Obligations.Par26Layout := by
  unfold Obligations.Par26Layout
  intro v
  rw [par26_eq_framed]
  refine ⟨framed_toNat .., fun zero => ?_⟩
  have odd := framed_lower_odd (n := 12) (evenP (v.extractLsb' 12 12)) v
  rw [zero] at odd
  simp at odd

/-- Settles O51: the accumulator holds the frame sent as a number (`foldl_shiftIn_sr`), and RX_STRIP drops its parity
bits. -/
theorem encodeThenStripRoundTrip : Obligations.EncodeThenStripRoundTrip := by
  unfold Obligations.EncodeThenStripRoundTrip
  intro V r empty
  simp only [foldl_shiftIn_sr empty]
  refine ⟨?_, BitVec.eq_of_toNat_eq ?_⟩
  · have ep := Bool.toNat_le (evenP ((V.extractLsb' 0 24).extractLsb' 12 12))
    have op := Bool.toNat_le (oddP ((V.extractLsb' 0 24).extractLsb' 0 12))
    rw [stripped_l26_toNat, loWord_eq, spelled_lineBits_l26, par26_eq_framed, framed_toNat, BitVec.extractLsb'_toNat]
    simp only [BitVec.toNat_ofNat, Nat.shiftRight_zero]
    omega
  · have ep := Bool.toNat_le (evenP (V.extractLsb' 16 16))
    have op := Bool.toNat_le (oddP (V.extractLsb' 0 16))
    have fits := V.isLt
    rw [stripped_l34_toNat, loWord_eq, hiWord_eq, spelled_lineBits_l34, framed_toNat]
    simp only [BitVec.toNat_ofNat]
    omega

/-- Settles O52: both are frames (`par26_eq_framed`, `spelled_lineBits_l34`), of 12 and of 16 bits to a half. -/
theorem conformingFrameParity : Obligations.ConformingFrameParity := by
  unfold Obligations.ConformingFrameParity
  intro V
  refine ⟨?_, ?_⟩
  · rw [par26_eq_framed]
    exact ⟨framed_upper_even (n := 12) .., framed_lower_odd (n := 12) ..⟩
  · have bit (F : BitVec 34) (i : Nat) : (BitVec.ofNat 64 F.toNat).getLsbD i = F.getLsbD i := by
      simpa using fun h => (BitVec.lt_of_getLsbD h).trans (by decide : 34 < 64)
    simp only [spelled_lineBits_l34, bit]
    exact ⟨framed_upper_even (n := 16) .., framed_lower_odd (n := 16) ..⟩

end Sys2Proof.Machine
end

section
/-! The output encoder (43_output_encoder R171 to R188): what a write does after its checks, the branches of the pulse
timer, the waveform of a whole write, and what the wake of a writer answers. -/

namespace Sys2Proof.Machine

variable {s t u : State} {c : CallerId} {i : Instr} {nb : Bool} {size : BitVec 4} {buf : List Byte} {V : Word}
  {n p : Nat}

/-! ## A write after its session and size checks (R173 to R175, R249) -/

/-- The write that `transmit` lets through has begun; the callers it serves are those of the done transmission. -/
theorem waitWriter_start_writeBegun (there : c < s.callers.length) (V : Word) (n : Nat) :
    WriteBegun c V n s (waitWriter c n (start V s.serveDone)) where
  frame := ⟨rfl, rfl, rfl, rfl, rfl⟩
  tx := rfl
  armed := rfl
  due := ⟨Nat.le_add_right .., Nat.add_le_add_left (latency_le .tx s.serveDone) _⟩
  lines := rfl
  waits := by
    have there' : c < (start V s.serveDone).callers.length := by simpa [start_eq] using there
    exact (suspend_waits rfl there').waiting
  serves := suspend_serves rfl

theorem writeOutcome_of_transmit (ready : s.isReady c = true) (h : exec i s = transmit c nb V n s) :
    WriteOutcome i c nb V n s := by
  refine ⟨fun hnb => ?_, fun hnb busy => ?_, fun hnb idle => ?_⟩
  · exact endsWith_of_raise ready (h.trans (transmit_next.2 (.inl ⟨hnb, rfl⟩)))
  · exact endsWith_of_raise ready (h.trans (transmit_next.2 (.inr (.inl ⟨hnb, busy, rfl⟩))))
  · exact ⟨_, h.trans (transmit_next.2 (.inr (.inr ⟨hnb, idle, rfl⟩))),
      waitWriter_start_writeBegun (isReady_lt ready) V n⟩

/-! ## TX_WRITE_BUF, in the order of its checks (R72, R75, R172) -/

theorem legalWriteSize_iff : legalWriteSize size = true ↔ size = 4 ∨ size = 8 := by simp [legalWriteSize]

theorem memRead_short (short : buf.length < n) : memRead buf n = none := if_neg short.not_ge

theorem memRead_of_le (supplied : n ≤ buf.length) : memRead buf n = some (buf.take n) := if_pos supplied

section
variable (ready : s.isReady c = true) (opened : s.tx.opened = true)
include ready opened

/-- The size is checked first, whatever the buffer and NB (R243). -/
theorem exec_txWriteBuf_badSize (bad : ¬ (size = 4 ∨ size = 8)) :
    exec (.txWriteBuf c nb size buf) s = raise c .invalidArgument s :=
  (issue_of_open ready opened).trans (if_pos (by simp [mt legalWriteSize_iff.1 bad]))

variable (legal : size = 4 ∨ size = 8)
include legal

theorem exec_txWriteBuf_short (short : buf.length < size.toNat) :
    exec (.txWriteBuf c nb size buf) s = .refused .shortBuffer :=
  (issue_of_open ready opened).trans <| (if_neg (by simp [legalWriteSize_iff.2 legal])).trans <| by
    rw [memRead_short short]

theorem exec_txWriteBuf_supplied (supplied : size.toNat ≤ buf.length) : exec (.txWriteBuf c nb size buf) s =
    transmit c nb (payloadValue (buf.take size.toNat)) size.toNat s :=
  (issue_of_open ready opened).trans <| (if_neg (by simp [legalWriteSize_iff.2 legal])).trans <| by
    rw [memRead_of_le supplied]

end

/-- A byte's word put above a word that ends below it is added to it. -/
theorem or_shiftLeft_toNat {x b : Word} {k : Nat} (low : x.toNat < 2 ^ k) (fits : b.toNat * 2 ^ k < 2 ^ 32) :
    (x ||| b <<< k).toNat = x.toNat + 2 ^ k * b.toNat := by
  rw [BitVec.toNat_or, BitVec.toNat_shiftLeft, Nat.shiftLeft_eq, Nat.mod_eq_of_lt fits, Nat.or_comm,
    ← Nat.shiftLeft_eq, ← Nat.shiftLeft_add_eq_or_of_lt low, Nat.shiftLeft_eq, Nat.mul_comm, Nat.add_comm]

/-- R75: V is the little-endian number of the first four bytes. -/
theorem payloadValue_cons (b0 b1 b2 b3 : Byte) (more : List Byte) : payloadValue (b0 :: b1 :: b2 :: b3 :: more) =
    BitVec.ofNat 32 (b0.toNat + 2 ^ 8 * b1.toNat + 2 ^ 16 * b2.toNat + 2 ^ 24 * b3.toNat) := by
  have word (b : Byte) : (b.setWidth 32 : Word).toNat = b.toNat :=
    BitVec.toNat_setWidth_of_le (by decide)
  have h0 := b0.isLt
  have h1 := b1.isLt
  have h2 := b2.isLt
  have h3 := b3.isLt
  have two : (b0.setWidth 32 ||| b1.setWidth 32 <<< 8 : Word).toNat = b0.toNat + 2 ^ 8 * b1.toNat := by
    rw [or_shiftLeft_toNat (by rw [word]; omega) (by rw [word]; omega), word, word]
  have three : (b0.setWidth 32 ||| b1.setWidth 32 <<< 8 ||| b2.setWidth 32 <<< 16 : Word).toNat =
      b0.toNat + 2 ^ 8 * b1.toNat + 2 ^ 16 * b2.toNat := by
    rw [or_shiftLeft_toNat (by omega) (by rw [word]; omega), two, word]
  apply BitVec.eq_of_toNat_eq
  rw [BitVec.toNat_ofNat, Nat.mod_eq_of_lt (by omega)]
  show (b0.setWidth 32 ||| b1.setWidth 32 <<< 8 ||| b2.setWidth 32 <<< 16 ||| b3.setWidth 32 <<< 24 : Word).toNat = _
  rw [or_shiftLeft_toNat (by omega) (by rw [word]; omega), three, word]

/-! ## The pulse timer's frame (R178 to R181, R187) -/

theorem exec_evTxTimer_refused (off : s.tx.timer.armed = false ∨ s.now ≠ s.tx.timer.due) :
    exec .evTxTimer s = .refused .notEnabled := by
  have silent : ¬ s.tx.timer.firesAt s.now = true := by
    rw [firesAt_iff]
    rintro ⟨armed, due⟩
    rcases off with disarmed | early
    · rw [armed] at disarmed; cases disarmed
    · exact early due
  exact if_neg silent

/-- From s to t, what is being sent and the settings it is sent with are as before (R187). -/
def SameTransmission (s t : State) : Prop :=
  t.tx.llen = s.tx.llen ∧ t.tx.w0 = s.tx.w0 ∧ t.tx.w1 = s.tx.w1 ∧ t.tx.pw = s.tx.pw ∧ t.tx.pi = s.tx.pi

theorem sameTransmission_of_tx (h : t.tx = s.tx) : SameTransmission s t := by
  rw [SameTransmission, h]
  exact ⟨rfl, rfl, rfl, rfl, rfl⟩

theorem pulse_sameTransmission (s : State) : SameTransmission s (pulse s) := by
  rcases pulse_cases s with ⟨_, _, h⟩ | ⟨_, _, h⟩ | ⟨_, h⟩ <;> rw [h]
  case inr.inl => rw [assertBit_eq]; exact ⟨rfl, rfl, rfl, rfl, rfl⟩
  all_goals exact ⟨rfl, rfl, rfl, rfl, rfl⟩

/-! ## The waveform of a write (R108, R176, R182) -/

theorem lineBits_getElem? {len : FrameLen} (h : p < len.bits) :
    (lineBits len V)[p]? = some (txBit (payload len V).1 (payload len V).2 p) := by
  simp [lineBits, h]

/-- The encoder x while it sends V: the next bit is the one at pos, and the timer is due at due. -/
def Tx.sending (x : Tx) (V : Word) (phase : Phase) (pos due : Nat) : Tx :=
  { x with w0 := (payload x.len V).1, w1 := (payload x.len V).2, llen := x.len, pos, phase, active := true,
           done := false, timer := ⟨true, due⟩ }

/-- The write of V that began in s stands before its pulse p (after the last one for p = L): the lines are high. -/
structure BeforePulse (s : State) (V : Word) (p : Nat) (u : State) : Prop where
  tLat  : u.par.tLat = 0
  tx    : u.tx = s.tx.sending V .assertPulse p (s.now + p * s.tx.period)
  lines : u.lines = ⟨true, true⟩

/-- The write of V that began in s is in its pulse p: the line of bit p is low. -/
structure DuringPulse (s : State) (V : Word) (p : Nat) (u : State) : Prop where
  tLat  : u.par.tLat = 0
  tx    : u.tx = s.tx.sending V .gap (p + 1) (s.now + p * s.tx.period + s.tx.pw.toNat)
  now   : u.now = s.now + p * s.tx.period
  lines : u.lines = if (lineBits s.tx.len V)[p]? = some true then ⟨true, false⟩ else ⟨false, true⟩

/-- The firing of the pulse timer at its due time. -/
def fire (u : State) : State := pulse { u with now := u.tx.timer.due }

theorem fires_succ (before : Fires n t u) (armed : u.tx.timer.armed = true) : Fires (n + 1) t (fire u) :=
  .succ before (exec_evTxTimer_of_due (s := { u with now := u.tx.timer.due }) armed rfl)

theorem fires_unique (hu : Fires n t u) : ∀ {v}, Fires n t v → u = v := by
  induction hu with
  | zero => rintro _ ⟨⟩; rfl
  | succ _ here ih =>
    rintro _ (_ | ⟨before, here'⟩)
    obtain rfl := ih before
    exact Host.Outcome.next.inj (here.symm.trans here')

theorem beforePulse_start (tLat : s.par.tLat = 0) (c : CallerId) (V : Word) (n : Nat) :
    BeforePulse s V 0 (waitWriter c n (start V s.serveDone)) := by
  have latency : s.serveDone.latency .tx = 0 := latency_zero .tx tLat
  refine ⟨tLat, ?_, rfl⟩
  simp [waitWriter, start_eq, latency, Tx.sending]

theorem duringPulse_fire (h : BeforePulse s V p u) (more : p < s.tx.len.bits) : DuringPulse s V p (fire u) := by
  have latency : ({ u with now := u.tx.timer.due } : State).latency .tx = 0 := latency_zero .tx h.tLat
  have bit := lineBits_getElem? (V := V) more
  rw [fire, pulse_assert (by simp [h.tx, Tx.sending]) (by simp [h.tx, Tx.sending, more.ne]), assertBit_eq, latency]
  refine ⟨h.tLat, ?_, ?_, ?_⟩
  · simp [h.tx, Tx.sending]
  · simp [h.tx, Tx.sending]
  · simp [h.tx, h.lines, Tx.sending, bit]

theorem beforePulse_fire (h : DuringPulse s V p u) : BeforePulse s V (p + 1) (fire u) := by
  have latency : ({ u with now := u.tx.timer.due } : State).latency .tx = 0 := latency_zero .tx h.tLat
  rw [fire, pulse_gap (by simp [h.tx, Tx.sending]), gapBit_eq, latency]
  refine ⟨h.tLat, ?_, rfl⟩
  have due : s.now + p * s.tx.period + s.tx.pw.toNat + s.tx.pi.toNat = s.now + (p + 1) * s.tx.period := by
    rw [Tx.period]; ring
  simp [h.tx, Tx.sending, due]

/-- Two firings make a pulse (R180, R181), so 2p of them lead to pulse p. -/
theorem exists_fires_beforePulse (h : BeforePulse s V 0 t) (p : Nat) (hp : p ≤ s.tx.len.bits) :
    ∃ u, Fires (2 * p) t u ∧ BeforePulse s V p u := by
  induction p with
  | zero => exact ⟨t, .zero t, h⟩
  | succ p ih =>
    obtain ⟨u, fires, before⟩ := ih (Nat.le_of_succ_le hp)
    have during := duringPulse_fire before hp
    have asserted := fires_succ fires (by rw [before.tx]; rfl)
    exact ⟨_, fires_succ asserted (by rw [during.tx]; rfl), beforePulse_fire during⟩

theorem exists_fires_duringPulse (h : BeforePulse s V 0 t) (hp : p < s.tx.len.bits) :
    ∃ u, Fires (2 * p + 1) t u ∧ DuringPulse s V p u := by
  obtain ⟨u, fires, before⟩ := exists_fires_beforePulse h p hp.le
  exact ⟨_, fires_succ fires (by rw [before.tx]; rfl), duringPulse_fire before hp⟩

/-- The firing after the last pulse completes the transmission (R179). -/
theorem fire_of_last (h : BeforePulse s V s.tx.len.bits u) :
    fire u = completeTx { u with now := s.now + s.tx.len.bits * s.tx.period } := by
  rw [fire, pulse_complete (by simp [h.tx, Tx.sending]) (by simp [h.tx, Tx.sending]), h.tx]
  rfl

/-! ## The wake of a writer (R183, R184) -/

theorem exec_evWakeWrite {x : Caller} {d : Nat} (hx : s.callers[c]? = some x) (hw : x.state = .waitingWrite d n) :
    exec (.evWakeWrite c) s = whenEnabled (s.writeOver d)
      (if s.tx.done then reply c (writeResult n) s else raise c .timeout (abort s)) := by
  simp only [exec, execEvWakeWrite, ofCaller, hx, hw]

/-! ## The statements -/

/-- Settles O16: with its session open, a Ready caller's write is `transmit`. -/
theorem txWriteStartsOrIsTurnedAway : Obligations.TxWriteStartsOrIsTurnedAway := by
  unfold Obligations.TxWriteStartsOrIsTurnedAway
  intro s c nb v ready opened
  exact writeOutcome_of_transmit ready (issue_of_open ready opened)

/-- Settles O17, check by check; SIZE is 4 or 8, so the bytes read begin with the four of the word. -/
theorem txWriteBufChecksSizeThenWrites : Obligations.TxWriteBufChecksSizeThenWrites := by
  unfold Obligations.TxWriteBufChecksSizeThenWrites
  intro s c nb size buf ready opened
  refine ⟨fun not4 not8 => ?_, fun b0 b1 b2 b3 more legal hbuf supplied => ?_, fun legal short => ?_⟩
  · exact endsWith_of_raise ready (exec_txWriteBuf_badSize ready opened (not_or.2 ⟨not4, not8⟩))
  · have bytes : ∃ rest, buf.take size.toNat = b0 :: b1 :: b2 :: b3 :: rest := by
      subst hbuf
      rcases legal with rfl | rfl
      · exact ⟨[], rfl⟩
      · exact ⟨more.take 4, rfl⟩
    obtain ⟨rest, bytes⟩ := bytes
    rw [← payloadValue_cons b0 b1 b2 b3 rest, ← bytes]
    exact writeOutcome_of_transmit ready (exec_txWriteBuf_supplied ready opened legal supplied)
  · exact exec_txWriteBuf_short ready opened legal short

/-- Settles O23, branch by branch of R178. -/
theorem pulseTimerBranches : Obligations.PulseTimerBranches := by
  unfold Obligations.PulseTimerBranches
  intro s
  refine ⟨fun armed due => ?_, exec_evTxTimer_refused⟩
  have latency := latency_le .tx s
  rw [exec_evTxTimer_of_due armed due]
  refine ⟨fun phase last => ?_, fun phase more => ?_, fun phase => ?_⟩
  · rw [pulse_complete phase last, completeTx_eq]
  · rw [pulse_assert phase more, assertBit_eq]
    exact ⟨_, rfl, ⟨rfl, rfl, rfl, rfl, rfl⟩, rfl, rfl, rfl, rfl, Nat.le_add_right .., Nat.add_le_add_left latency _⟩
  · rw [pulse_gap phase, gapBit_eq]
    exact ⟨_, rfl, ⟨rfl, rfl, rfl, rfl, rfl⟩, rfl, rfl, rfl, rfl, Nat.le_add_right .., Nat.add_le_add_left latency _⟩

/-- Settles O24: a state reached by 2p or 2p + 1 firings is the one before or in pulse p, because the firings of a state
lead to one state only (`fires_unique`). -/
theorem waveformOfAWrite : Obligations.WaveformOfAWrite := by
  unfold Obligations.WaveformOfAWrite
  intro s t c V tLat idle write P L
  obtain ⟨-, write⟩ := issue_next.1 write
  obtain ⟨-, write⟩ := requireSession_next.1 write
  obtain ⟨hnb, -⟩ | ⟨-, busy, -⟩ | ⟨-, -, rfl⟩ := transmit_next.1 write
  · cases hnb
  · rw [idle] at busy; cases busy
  · have begun := beforePulse_start tLat c V 4
    refine ⟨fun p u hp fires => ?_, fun p u hp fires => ?_, ?_⟩
    · obtain ⟨w, fires', before⟩ := exists_fires_beforePulse begun p hp.le
      obtain rfl := fires_unique fires fires'
      rw [before.tx]
      exact ⟨rfl, rfl, before.lines⟩
    · obtain ⟨w, fires', during⟩ := exists_fires_duringPulse begun hp
      obtain rfl := fires_unique fires fires'
      rw [during.tx]
      exact ⟨during.now, rfl, rfl, during.lines⟩
    · obtain ⟨u, fires, before⟩ := exists_fires_beforePulse begun L le_rfl
      have last := fires_succ fires (by rw [before.tx]; rfl)
      rw [fire_of_last before] at last
      exact ⟨_, last, rfl, rfl, rfl, rfl, before.lines⟩

/-- Settles O27: TX.done is tested first, then the deadline. -/
theorem wakeWriteReportsDoneOrTimeout : Obligations.WakeWriteReportsDoneOrTimeout := by
  unfold Obligations.WakeWriteReportsDoneOrTimeout
  intro s c x wrDue n hx hw
  have there : c < s.callers.length := (List.getElem?_eq_some_iff.1 hx).1
  rw [exec_evWakeWrite hx hw]
  refine ⟨fun done => ?_, fun notDone late => ?_, fun notDone early => ?_⟩
  · refine ⟨s.finish c (writeResult n), ?_, finish_sameBlock .., finish_answers rfl there⟩
    simp [State.writeOver, done, whenEnabled]
  · refine ⟨(abort s).finish c (.bare .timeout), ?_, rfl, rfl, ⟨rfl, rfl, rfl, rfl, rfl⟩, rfl,
      finish_answers rfl there⟩
    simp [State.writeOver, notDone, late, whenEnabled]
  · simp [State.writeOver, notDone, early, whenEnabled]

/-- Settles O38: a firing leaves what is sent (`pulse_sameTransmission`), a write and a SET need TX.active = 0, and
TX_OPEN, an abort and a reset end the transmission. -/
theorem transmissionIsFrozenWhileActive : Obligations.TransmissionIsFrozenWhileActive := by
  unfold Obligations.TransmissionIsFrozenWhileActive
  intro s t i hi active active'
  show SameTransmission s t
  cases exec_effect hi
  case txWrite rest | txWriteBuf rest | txSetPw rest | txSetPi rest | txSetLen rest =>
    rw [active] at rest; cases rest
  case txOpen | wakeTimeout | evReset => cases active'
  case evTxTimer => exact pulse_sameTransmission s
  case evEdge l => exact sameTransmission_of_tx (edge_frame l s).1.tx
  case rxTake c _ _ _ _ | evWakeRead c _ _ _ _ => exact sameTransmission_of_tx (takeFrame_onlyRx c s).1.tx
  all_goals exact ⟨rfl, rfl, rfl, rfl, rfl⟩

/-- Settles O53, by the caller's position. -/
theorem wakeWriteOfOtherCallersIsRefused : Obligations.WakeWriteOfOtherCallersIsRefused := by
  unfold Obligations.WakeWriteOfOtherCallersIsRefused
  rintro s c ⟨w, r⟩ hx other
  cases w with
  | ready | waitingRead => simp only [exec, execEvWakeWrite, ofCaller, hx]
  | waitingWrite wrDue n => exact absurd rfl (other wrDue n)

end Sys2Proof.Machine
end

section
/-! Sessions and settings (44_session_config R201 to R213): what opens, closes and SET commands of a Ready caller answer,
who is released by an open, and which commands need a session. -/

namespace Sys2Proof.Machine

variable {s u : State} {c : CallerId} {i : Instr} {a : Word} {legal : Prop} [Decidable legal]

/-! ## The value check of a SET command (R35, R207 to R213) -/

theorem legalTime_iff : legalTime a = true ↔ 1 ≤ a.toNat ∧ a.toNat ≤ 16777215 := by
  rw [legalTime, Bool.and_eq_true, decide_eq_true_iff, decide_eq_true_iff]; rfl

/-- The value check of a pulse width or an interval, on numbers. -/
theorem setTime_eq (a : Word) (u : State) : (if legalTime a then some u else none) =
    if 1 ≤ a.toNat ∧ a.toNat ≤ 16777215 then some u else none := by
  simp only [legalTime_iff]

/-- The value check of a frame length. -/
theorem setLen_eq (a : Word) (w : FrameLen → State) : (lenOf a).map w =
    if a = 26 ∨ a = 34 then some (w (if a = 26 then .l26 else .l34)) else none := by
  by_cases short : a = 26
  · subst short; rfl
  by_cases long : a = 34
  · subst long; rfl
  · rw [lenOf, if_neg short, if_neg long, if_neg (not_or.2 ⟨short, long⟩)]; rfl

/-! ## The order of a SET command's checks (R207) -/

section
variable (ready : s.isReady c = true)
include ready

/-- A SET refuses the value, then the busy state, and else leads to u with the answer OK. -/
theorem setOutcome_of_setting {busy : Bool} {after : State → Prop}
    (h : exec i s = setting c busy (if legal then some u else none) s) (callers : u.callers = s.callers)
    (written : after (u.finish c (bareResult .ok))) : SetOutcome i c s legal (busy = true) after := by
  refine ⟨fun illegal => ?_, fun ok isBusy => ?_, fun ok idle => ?_⟩
  · exact endsWith_of_raise ready (h.trans (setting_next.2 ⟨ready, .inl ⟨if_neg illegal, rfl⟩⟩))
  · exact endsWith_of_raise ready (h.trans (setting_next.2 ⟨ready, .inr (.inl ⟨u, if_pos ok, isBusy, rfl⟩)⟩))
  · exact ⟨_, h.trans (setting_next.2 ⟨ready, .inr (.inr ⟨u, if_pos ok, Bool.eq_false_iff.2 idle, rfl⟩)⟩), written,
      finish_answers callers (isReady_lt ready)⟩

/-- A SET of the decoder is busy mid-frame and writes RX only. -/
theorem setOutcome_rx {rx : Rx}
    (h : exec i s = setting c s.rx.midFrame (if legal then some { s with rx := rx } else none) s) :
    SetOutcome i c s legal (s.rx.count ≠ -1) fun t => t.rx = rx ∧ OnlyRx s t ∧ t.rxDraws = s.rxDraws := by
  have midFrame : s.rx.midFrame = true ↔ s.rx.count ≠ -1 := decide_eq_true_iff
  rw [← midFrame]
  exact setOutcome_of_setting ready h rfl ⟨rfl, ⟨rfl, rfl, rfl, rfl, rfl, rfl⟩, rfl⟩

/-- A SET of the encoder is busy while a transmission is active and writes TX only. -/
theorem setOutcome_tx {tx : Tx}
    (h : exec i s = setting c s.tx.active (if legal then some { s with tx := tx } else none) s) :
    SetOutcome i c s legal (s.tx.active = true) fun t =>
      t.tx = tx ∧ OnlyTx s t ∧ t.txDraws = s.txDraws ∧ t.lines = s.lines :=
  setOutcome_of_setting ready h rfl ⟨rfl, ⟨rfl, rfl, rfl, rfl, rfl⟩, rfl, rfl⟩

/-! ## Commands that need a session (R206) -/

/-- A Ready caller's command that needs a session is refused without one. -/
theorem issue_of_closed {opened : Bool} {o : StepOutcome} (h : opened = false) :
    issue c s (requireSession opened o) = .refused .noSession := by
  rw [issue_of_ready ready, h]; rfl

end

/-! ## Opening a session (R201, R203) -/

/-- The caller that opens is answered, whoever else is released. -/
theorem interrupt_finish_told (p : CallerState → Bool) (r : Result) (callers : u.callers = s.callers)
    (there : c < s.callers.length) : ((u.interrupt p).finish c r).callers[c]? = some ⟨.ready, some r⟩ := by
  simp [callers, there]

/-! ## Cancellation (R205) -/

theorem isWaiting_iff {w : CallerState} : w.isWaiting = true ↔ w ≠ .ready := by
  cases w <;> simp [CallerState.isWaiting, CallerState.isReader, CallerState.isWriter]

theorem exec_evCancel_of_ready {x : Caller} (hx : s.callers[c]? = some x) (hw : x.state = .ready) :
    exec (.evCancel c) s = .refused .notEnabled := by
  simp only [exec, execEvCancel, ofCaller, hx, hw]; rfl

/-! ## The statements -/

/-- Settles O13: each command is a SET (`setOutcome_rx`) with R208's to R210's value check. -/
theorem rxSetChecksValueThenBusy : Obligations.RxSetChecksValueThenBusy := by
  unfold Obligations.RxSetChecksValueThenBusy
  intro s c a ready
  refine ⟨setOutcome_rx ready ?_, setOutcome_rx ready ?_, setOutcome_rx ready ?_⟩
  · rw [exec, execRxSetPw, setTime_eq]
  · rw [exec, execRxSetPi, setTime_eq]
  · rw [exec, execRxSetLen, setLen_eq]

/-- Settles O14: each command is a SET (`setOutcome_tx`) with R211's to R213's value check. -/
theorem txSetChecksValueThenBusy : Obligations.TxSetChecksValueThenBusy := by
  unfold Obligations.TxSetChecksValueThenBusy
  intro s c a ready
  refine ⟨setOutcome_tx ready ?_, setOutcome_tx ready ?_, setOutcome_tx ready ?_⟩
  · rw [exec, execTxSetPw, setTime_eq]
  · rw [exec, execTxSetPi, setTime_eq]
  · rw [exec, execTxSetLen, setLen_eq]

/-- Settles O8: the session bit decides; a fresh session releases the readers and then answers its caller. -/
theorem rxOpenStartsAFreshSession : Obligations.RxOpenStartsAFreshSession := by
  unfold Obligations.RxOpenStartsAFreshSession
  intro s c ready
  refine ⟨fun opened => ?_, fun closed => ?_⟩
  · exact endsWith_of_raise ready ((issue_of_ready ready).trans (if_pos opened))
  · have fresh : exec (.rxOpen c) s = replyOk c (({ s with rx := s.rx.openSession }).interrupt CallerState.isReader) :=
      (issue_of_ready ready).trans (if_neg (Bool.eq_false_iff.1 closed))
    exact ⟨_, fresh, rfl, ⟨rfl, rfl, rfl, rfl, rfl, rfl⟩, rfl,
      interrupt_finish_told _ _ rfl (isReady_lt ready), interrupt_finish_releases _ rfl⟩

/-- Settles O9: a close is issued with no check of its own. -/
theorem closeAlwaysSucceeds : Obligations.CloseAlwaysSucceeds := by
  unfold Obligations.CloseAlwaysSucceeds
  intro s c ready
  have there := isReady_lt ready
  refine ⟨?_, ?_⟩
  · exact ⟨_, issue_of_ready ready, rfl, ⟨rfl, rfl, rfl, rfl, rfl, rfl⟩, rfl, finish_answers rfl there⟩
  · exact ⟨_, issue_of_ready ready, rfl, ⟨rfl, rfl, rfl, rfl, rfl⟩, rfl, rfl, finish_answers rfl there⟩

/-- Settles O15: the session bit decides; a fresh session aborts, releases the writers and then answers its caller. -/
theorem txOpenAbortsAndStartsAFreshSession : Obligations.TxOpenAbortsAndStartsAFreshSession := by
  unfold Obligations.TxOpenAbortsAndStartsAFreshSession
  intro s c ready
  refine ⟨fun opened => ?_, fun closed => ?_⟩
  · exact endsWith_of_raise ready ((issue_of_ready ready).trans (if_pos opened))
  · have fresh : exec (.txOpen c) s = replyOk c ((openTx s).interrupt CallerState.isWriter) :=
      (issue_of_ready ready).trans (if_neg (Bool.eq_false_iff.1 closed))
    exact ⟨_, fresh, rfl, rfl, ⟨rfl, rfl, rfl, rfl, rfl⟩, rfl,
      interrupt_finish_told _ _ rfl (isReady_lt ready), interrupt_finish_releases _ rfl⟩

/-- Settles O25: a caller that is not Ready waits, and its cancellation only answers it. -/
theorem cancelInterruptsAWaitingCaller : Obligations.CancelInterruptsAWaitingCaller := by
  unfold Obligations.CancelInterruptsAWaitingCaller
  intro s c x hx
  have there : c < s.callers.length := (List.getElem?_eq_some_iff.1 hx).1
  exact ⟨fun waits => ⟨_, exec_evCancel_of_waiting hx (isWaiting_iff.2 waits), finish_sameBlock ..,
    finish_answers rfl there⟩, exec_evCancel_of_ready hx⟩

/-- Settles O31: the session is checked first in all five commands (`issue_of_closed`). -/
theorem closedSessionRefusesReadsWritesAndQueries : Obligations.ClosedSessionRefusesReadsWritesAndQueries := by
  unfold Obligations.ClosedSessionRefusesReadsWritesAndQueries
  intro s c ready
  refine ⟨fun closed => ⟨fun nb size => ?_, ?_, ?_⟩, fun closed => ⟨fun nb v => ?_, fun nb size buf => ?_⟩⟩
  all_goals exact issue_of_closed ready closed

end Sys2Proof.Machine
end

section
/-! Exceptions and callers (60_exceptions R238, R249): the invariant of the callers that wait in a write, what a write does
while another caller waits in one, and that a close and an open recover either subsystem from every state. -/

namespace Sys2Proof.Machine

variable {s t u : State} {c d : CallerId} {i : Instr} {w n : Nat}

/-! ## The callers that wait in a write (R55, R175)

`WriterInv` speaks of the waiting writers only through `WaitsInWrite`, so each operation needs one lemma: who waits in a
write after it. -/

/-- Caller c waits in a write with deadline w and n bytes to report. -/
def WaitsInWrite (s : State) (c : CallerId) (w n : Nat) : Prop :=
  ∃ x, s.callers[c]? = some x ∧ x.state = .waitingWrite w n

/-- Every caller that waits in a write in t did so in s. -/
def NoNewWriter (s t : State) : Prop := ∀ c w n, WaitsInWrite t c w n → WaitsInWrite s c w n

theorem noNewWriter_sameCallers (callers : t.callers = s.callers) : NoNewWriter s t := by
  intro c w n h
  rwa [WaitsInWrite, callers] at h

/-- After caller c is put into the position of y, a caller waits in a write if it is c and y does, or did so before. -/
theorem waitsInWrite_setCaller {y : Caller} (callers : t.callers = s.callers.set c y) (h : WaitsInWrite t d w n) :
    (d = c ∧ y.state = .waitingWrite w n) ∨ (d ≠ c ∧ WaitsInWrite s d w n) := by
  obtain ⟨x, hx, hw⟩ := h
  rw [callers] at hx
  by_cases hd : d = c
  · subst hd
    obtain ⟨_, rfl⟩ := List.getElem?_eq_some_iff.1 hx
    rw [List.getElem_set_self] at hw
    exact .inl ⟨rfl, hw⟩
  · rw [List.getElem?_set_ne (Ne.symm hd)] at hx
    exact .inr ⟨hd, x, hx, hw⟩

/-- A caller that is answered waits no longer; the others are as before. -/
theorem waitsInWrite_finish {r : Result} (h : WaitsInWrite (s.finish c r) d w n) : d ≠ c ∧ WaitsInWrite s d w n := by
  rcases waitsInWrite_setCaller rfl h with ⟨_, hw⟩ | old
  · cases hw
  · exact old

theorem noNewWriter_finish (s : State) (c : CallerId) (r : Result) : NoNewWriter s (s.finish c r) :=
  fun _ _ _ h => (waitsInWrite_finish h).2

theorem noNewWriter_takeFrame (c : CallerId) (s : State) : NoNewWriter s (takeFrame c s) := by
  obtain ⟨r, f, e, heq, _⟩ := takeFrame_cases c s
  rw [heq]
  exact noNewWriter_finish _ c r

theorem noNewWriter_suspendRead (s : State) (c : CallerId) : NoNewWriter s (s.suspend c .waitingRead) := by
  intro d w n h
  rcases waitsInWrite_setCaller rfl h with ⟨_, hw⟩ | ⟨_, old⟩
  · cases hw
  · exact old

/-- A caller that waits in a write after all callers are mapped by f is one that f leaves or puts there. -/
theorem waitsInWrite_mapCallers {f : Caller → Caller} (callers : t.callers = s.callers.map f)
    (h : WaitsInWrite t c w n) : ∃ x, s.callers[c]? = some x ∧ (f x).state = .waitingWrite w n := by
  obtain ⟨y, hy, hw⟩ := h
  rw [callers, List.getElem?_map] at hy
  obtain ⟨x, hx, rfl⟩ := Option.map_eq_some_iff.1 hy
  exact ⟨x, hx, hw⟩

/-- A writer that an interrupt spares was not named by it and waited before. -/
theorem waitsInWrite_interrupt {p : CallerState → Bool} (h : WaitsInWrite (s.interrupt p) c w n) :
    p (.waitingWrite w n) = false ∧ WaitsInWrite s c w n := by
  obtain ⟨x, hx, hw⟩ := waitsInWrite_mapCallers rfl h
  unfold Caller.interruptIf at hw
  split at hw
  · cases hw
  · rename_i spared
    exact ⟨hw ▸ Bool.eq_false_iff.2 spared, x, hx, hw⟩

/-- After the outstanding completions a caller waits in a write only for a transmission that is not done (R183). -/
theorem waitsInWrite_serveDone (h : WaitsInWrite s.serveDone c w n) : s.tx.done = false ∧ WaitsInWrite s c w n := by
  obtain ⟨x, hx, hw⟩ := waitsInWrite_mapCallers rfl h
  obtain ⟨notDone, hw⟩ := serveIf_waits hw
  exact ⟨notDone, x, hx, hw⟩

/-! ## The invariant of the writers (R249, R275) -/

/-- The transmission is active, and completes at most (2L+1)·T_LAT after wr_due − WR_MARGIN for the deadline wr_due = w. -/
def InTime (s : State) (w : Nat) : Prop :=
  s.tx.active = true ∧ s.tx.timer.due + s.tx.workLeft + s.tx.armsLeft * s.par.tLat + s.par.wrMargin ≤
    w + (2 * s.tx.llen.bits + 1) * s.par.tLat

theorem WriterInv.unique (h : WriterInv s) {w' n' : Nat} (hc : WaitsInWrite s c w n) (hd : WaitsInWrite s d w' n') :
    c = d := by
  obtain ⟨x, hx, hw⟩ := hc
  obtain ⟨y, hy, hw'⟩ := hd
  exact h.one c d x y w n w' n' hx hy hw hw'

theorem WriterInv.inTime (h : WriterInv s) (hc : WaitsInWrite s c w n) (notDone : s.tx.done = false) : InTime s w := by
  obtain ⟨x, hx, hw⟩ := hc
  exact h.served c x w n hx hw notDone

/-- With the encoder at rest, what a waiting writer waits for is done. -/
theorem WriterInv.done_of_rest (h : WriterInv s) (hc : WaitsInWrite s c w n) (rest : s.tx.active = false) :
    s.tx.done = true := by
  by_contra notDone
  have active := (h.inTime hc (Bool.eq_false_iff.2 notDone)).1
  rw [rest] at active
  cases active

theorem writerInv_of_waits (one : ∀ c d w n w' n', WaitsInWrite t c w n → WaitsInWrite t d w' n' → c = d)
    (inTime : ∀ c w n, WaitsInWrite t c w n → t.tx.done = false → InTime t w) : WriterInv t :=
  ⟨fun c d x y w n w' n' hx hy hw hw' => one c d w n w' n' ⟨x, hx, hw⟩ ⟨y, hy, hw'⟩,
    fun c x w n hx hw => inTime c w n ⟨x, hx, hw⟩⟩

theorem writerInv_of_noWriter (none : ∀ c w n, ¬ WaitsInWrite t c w n) : WriterInv t :=
  writerInv_of_waits (fun c _ w n _ _ h _ => absurd h (none c w n)) fun c w n h => absurd h (none c w n)

/-- Where no caller begins to wait, only the bound has to be kept. -/
theorem writerInv_of_noNewWriter (h : WriterInv s) (old : NoNewWriter s t)
    (inTime : ∀ c w n, WaitsInWrite s c w n → t.tx.done = false → InTime t w) : WriterInv t :=
  writerInv_of_waits (fun _ _ _ _ _ _ hc hd => h.unique (old _ _ _ hc) (old _ _ _ hd))
    fun c w n hc => inTime c w n (old c w n hc)

theorem writerInv_sameTx (h : WriterInv s) (old : NoNewWriter s t) (tx : t.tx = s.tx) (par : t.par = s.par) :
    WriterInv t := by
  refine writerInv_of_noNewWriter h old fun c w n hc notDone => ?_
  rw [InTime, tx, par]
  exact h.inTime hc (tx ▸ notDone)

/-- At rest the settings and the session bit may change: the transmission a writer waits for is done. -/
theorem writerInv_atRest (h : WriterInv s) (old : NoNewWriter s t) (rest : s.tx.active = false)
    (done : t.tx.done = s.tx.done) : WriterInv t := by
  refine writerInv_of_noNewWriter h old fun c w n hc notDone => ?_
  rw [done, h.done_of_rest hc rest] at notDone
  cases notDone

/-! ## The pulse timer: each firing takes its own share of the bound (R178 to R182, R274) -/

/-- A firing at its due time that arms the timer for `delay` keeps the bound, if it takes `delay` off the work and one off
the arms that are left. -/
theorem inTime_rearm {delay : Nat} (h : InTime s w) (due : s.now = s.tx.timer.due) (active : t.tx.active = s.tx.active)
    (armed : t.tx.timer.due = s.now + delay + s.latency .tx) (work : s.tx.workLeft = t.tx.workLeft + delay)
    (arms : s.tx.armsLeft = t.tx.armsLeft + 1) (llen : t.tx.llen = s.tx.llen) (par : t.par = s.par) : InTime t w := by
  obtain ⟨isActive, bound⟩ := h
  refine ⟨active ▸ isActive, ?_⟩
  have latency := latency_le .tx s
  rw [work, arms] at bound
  rw [armed, llen, par]
  linarith

/-- The assert branch leaves one bit less to send, and the gap after the bit it drives (R180). -/
theorem workLeft_assertBit (phase : s.tx.phase = .assertPulse) (more : s.tx.pos < s.tx.llen.bits) :
    s.tx.workLeft = (assertBit s).tx.workLeft + s.tx.pw.toNat := by
  obtain ⟨k, left⟩ := Nat.exists_eq_add_of_lt more
  have before : s.tx.llen.bits - s.tx.pos = k + 1 := by omega
  have after : s.tx.llen.bits - (s.tx.pos + 1) = k := by omega
  simp only [assertBit_eq, Tx.workLeft, phase, before, after, reduceCtorEq, if_false, if_true]
  ring

theorem armsLeft_assertBit (phase : s.tx.phase = .assertPulse) (more : s.tx.pos < s.tx.llen.bits) :
    s.tx.armsLeft = (assertBit s).tx.armsLeft + 1 := by
  simp only [assertBit_eq, Tx.armsLeft, phase, reduceCtorEq, if_false, if_true]
  omega

theorem inTime_assertBit (h : InTime s w) (due : s.now = s.tx.timer.due) (phase : s.tx.phase = .assertPulse)
    (more : s.tx.pos < s.tx.llen.bits) : InTime (assertBit s) w :=
  inTime_rearm h due rfl rfl (workLeft_assertBit phase more) (armsLeft_assertBit phase more) rfl rfl

/-- The gap branch leaves the bits still to send (R181). -/
theorem inTime_gapBit (h : InTime s w) (due : s.now = s.tx.timer.due) (phase : s.tx.phase = .gap) :
    InTime (gapBit s) w := by
  have work : s.tx.workLeft = (gapBit s).tx.workLeft + s.tx.pi.toNat := by simp [gapBit_eq, Tx.workLeft, phase]
  have arms : s.tx.armsLeft = (gapBit s).tx.armsLeft + 1 := by simp [gapBit_eq, Tx.armsLeft, phase]
  exact inTime_rearm h due rfl rfl work arms rfl rfl

theorem writerInv_pulse (h : WriterInv s) (enc : EncoderInv s) (fires : s.tx.timer.firesAt s.now = true) :
    WriterInv (pulse s) := by
  obtain ⟨armed, due⟩ := firesAt_iff.1 fires
  have active := enc.armed.2 armed
  refine writerInv_of_noNewWriter h (noNewWriter_sameCallers (pulse_frame s).2) fun c w n hc => ?_
  have bound : s.tx.done = false → InTime s w := h.inTime hc
  rcases pulse_cases s with ⟨_, _, heq⟩ | ⟨phase, more, heq⟩ | ⟨phase, heq⟩ <;> rw [heq]
  case inl => exact nofun
  case inr.inl =>
    exact fun notDone => inTime_assertBit (bound notDone) due phase (lt_of_le_of_ne (enc.pos active) more)
  case inr.inr => exact fun notDone => inTime_gapBit (bound notDone) due phase

/-! ## A write: its caller is the only one that waits (R175, R249) -/

theorem waitsInWrite_of_write (h : WriterInv s) (rest : s.tx.active = false) {V : Word} {k : Nat}
    (hd : WaitsInWrite (waitWriter c k (start V s.serveDone)) d w n) :
    d = c ∧ w = s.now + s.tx.period * s.tx.len.bits + s.par.wrMargin := by
  rcases waitsInWrite_setCaller (s := s.serveDone) rfl hd with ⟨rfl, hw⟩ | ⟨_, old⟩
  · cases hw
    exact ⟨rfl, rfl⟩
  · obtain ⟨notDone, old⟩ := waitsInWrite_serveDone old
    rw [h.done_of_rest old rest] at notDone
    cases notDone

/-- The bound of a write that starts: its first arming is the one of the 2L + 1 that `Tx.armsLeft` does not count. -/
theorem inTime_write (s : State) (c : CallerId) (V : Word) (n : Nat) :
    InTime (waitWriter c n (start V s.serveDone)) (s.now + s.tx.period * s.tx.len.bits + s.par.wrMargin) := by
  have latency := latency_le .tx s.serveDone
  refine ⟨rfl, ?_⟩
  simp only [waitWriter, start_eq, State.suspend_tx, State.suspend_par, State.serveDone_tx, State.serveDone_par,
    State.serveDone_now, Tx.workLeft, Tx.armsLeft, Tx.period, reduceCtorEq, if_false, Nat.sub_zero] at latency ⊢
  linarith

theorem writerInv_write (h : WriterInv s) (rest : s.tx.active = false) (c : CallerId) (V : Word) (n : Nat) :
    WriterInv (waitWriter c n (start V s.serveDone)) := by
  refine writerInv_of_waits (fun d e w k w' k' hd he => ?_) fun d w k hd _ => ?_
  · rw [(waitsInWrite_of_write h rest hd).1, (waitsInWrite_of_write h rest he).1]
  · rw [(waitsInWrite_of_write h rest hd).2]
    exact inTime_write s c V n

/-- An abort needs no bound: the writer it answers was the only one (R184, R249). -/
theorem writerInv_abort (h : WriterInv s) (hc : WaitsInWrite s c w n) (r : Result) :
    WriterInv ((abort s).finish c r) := by
  refine writerInv_of_noWriter fun d w' n' hd => ?_
  obtain ⟨other, hd⟩ := waitsInWrite_finish hd
  exact other (h.unique hd hc)

theorem Effect.writerInv (e : Effect s i t) (enc : EncoderInv s) (h : WriterInv s) : WriterInv t := by
  cases e
  case rxOpen c _ _ =>
    exact writerInv_sameTx h (fun _ _ _ hd => (waitsInWrite_interrupt (waitsInWrite_finish hd).2).2) rfl rfl
  case rxTake c _ _ _ _ | evWakeRead c _ _ _ _ =>
    exact writerInv_sameTx h (noNewWriter_takeFrame c s) (takeFrame_onlyRx c s).1.tx (takeFrame_onlyRx c s).1.par
  case rxWait c _ _ _ _ => exact writerInv_sameTx h (noNewWriter_suspendRead s c) rfl rfl
  case txOpen =>
    exact writerInv_of_noWriter fun _ _ _ hd => nomatch (waitsInWrite_interrupt (waitsInWrite_finish hd).2).1
  case txClose c _ => exact writerInv_of_noNewWriter h (noNewWriter_finish _ c _) fun d w n hd => h.inTime hd
  case txWrite c _ v _ rest => exact writerInv_write h rest c v 4
  case txWriteBuf c _ size _ v _ rest => exact writerInv_write h rest c v size.toNat
  case txSetPw c _ _ _ rest | txSetPi c _ _ _ rest | txSetLen c _ _ _ _ rest =>
    exact writerInv_atRest h (noNewWriter_finish _ c _) rest rfl
  case evEdge l =>
    exact writerInv_sameTx h (noNewWriter_sameCallers (edge_frame l s).2) (edge_frame l s).1.tx (edge_frame l s).1.par
  case evRxTimer | evTime => exact writerInv_sameTx h (noNewWriter_sameCallers rfl) rfl rfl
  case evTxTimer fires => exact writerInv_pulse h enc fires
  case wakeTimeout x _ _ who waits _ _ => exact writerInv_abort h ⟨x, who, waits⟩ _
  case evReset => exact writerInv_of_noWriter fun _ _ _ hd => nomatch (waitsInWrite_interrupt hd).1
  all_goals exact writerInv_sameTx h (noNewWriter_finish _ _ _) rfl rfl

/-! ## A write where another caller waits in one (R173, R183, R249) -/

/-- A write with NB = 0, a legal SIZE and its bytes supplied is `transmit`, of the same word in every state. -/
theorem exec_plainWrite (plain : PlainWrite c i) : ∃ V k, ∀ s : State, s.isReady c = true → s.tx.opened = true →
    exec i s = transmit c false V k s := by
  cases i
  case txWrite d nb v =>
    obtain ⟨rfl, rfl⟩ := plain
    exact ⟨v, 4, fun _ ready opened => issue_of_open ready opened⟩
  case txWriteBuf d nb size buf =>
    obtain ⟨rfl, rfl, legal, supplied⟩ := plain
    exact ⟨_, _, fun _ ready opened => exec_txWriteBuf_supplied ready opened legal supplied⟩
  all_goals exact plain.elim

theorem not_waitsInWrite_of_ready (ready : s.isReady c = true) : ¬ WaitsInWrite s c w n := by
  rintro ⟨x, hx, hw⟩
  obtain ⟨q, hq⟩ := isReady_iff.1 ready
  rw [hq] at hx
  cases hx
  cases hw

/-- A done transmission's writer wakes with OK (R183). -/
theorem exec_evWakeWrite_done (hd : WaitsInWrite s d w n) (done : s.tx.done = true) :
    exec (.evWakeWrite d) s = .next (s.finish d (writeResult n)) := by
  obtain ⟨x, hx, hw⟩ := hd
  rw [exec_evWakeWrite hx hw]
  simp [whenEnabled, State.writeOver, done]

/-- The wake of a done transmission's writer is one of the outstanding completions (R183, log entry 14). -/
theorem serveDone_finish (hd : WaitsInWrite s d w n) (done : s.tx.done = true) :
    (s.finish d (writeResult n)).serveDone = s.serveDone := by
  obtain ⟨x, hx, hw⟩ := hd
  have served : (s.callers.map (Caller.serveIf true))[d]? = some ⟨.ready, some (writeResult n)⟩ := by
    rw [List.getElem?_map, hx, Option.map_some, serveIf_writer hw]
  obtain ⟨there, entry⟩ := List.getElem?_eq_some_iff.1 served
  have answered : Caller.serveIf true ⟨.ready, some (writeResult n)⟩ = ⟨.ready, some (writeResult n)⟩ := rfl
  have callers : (s.callers.set d ⟨.ready, some (writeResult n)⟩).map (Caller.serveIf true) =
      s.callers.map (Caller.serveIf true) := by
    rw [List.map_set, answered, ← entry, List.set_getElem_self]
  simp only [State.serveDone, State.finish, done, callers]

/-! ## Nobody is left waiting after a release (R201, R203) -/

theorem Releases.none_left {p : CallerState → Bool} (h : Releases p (some c) s t) {r : Option Result}
    (told : t.callers[c]? = some ⟨.ready, r⟩) (ready : p .ready = false) : ∀ x ∈ t.callers, p x.state = false := by
  intro x hx
  obtain ⟨d, hd⟩ := List.mem_iff_getElem?.1 hx
  by_cases hdc : d = c
  · subst hdc
    cases told.symm.trans hd
    exact ready
  · have other : some d ≠ some c := fun e => hdc (Option.some.inj e)
    have there : d < s.callers.length := h.length ▸ (List.getElem?_eq_some_iff.1 hd).1
    have before := List.getElem?_eq_getElem there
    by_cases waits : p s.callers[d].state = true
    · cases (h.released d _ other before waits).symm.trans hd
      exact ready
    · have spared := Bool.eq_false_iff.2 waits
      cases (h.others d _ other before spared).symm.trans hd
      exact spared

/-! ## The statements -/

/-- Settles O57: a case split over what an instruction can do (`Effect.writerInv`), each step of the pulse timer taking its
own share of the bound (`inTime_rearm`); an illegal command only answers. -/
theorem stepKeepsWriterInv : Obligations.StepKeepsWriterInv := by
  unfold Obligations.StepKeepsWriterInv
  intro s t enc hs hstep
  obtain ⟨x, rest, _, ⟨i, _, hi⟩ | ⟨_, c, _, _, _, _, rfl⟩⟩ := step_next hstep
  · exact (exec_effect hi).writerInv (encoderInv_sameTx enc rfl rfl)
      (writerInv_sameTx hs (noNewWriter_sameCallers rfl) rfl rfl)
  · exact writerInv_sameTx hs (noNewWriter_finish _ c _) rfl rfl

/-- Settles O42: a close leaves its caller Ready and the session closed, so the open is not BUSY. -/
theorem closeAndReopenRecovers : Obligations.CloseAndReopenRecovers := by
  unfold Obligations.CloseAndReopenRecovers
  intro s c ready
  obtain ⟨⟨t, close, rx, -, -, answer⟩, ⟨t', close', tx', -, -, -, answer'⟩⟩ := closeAlwaysSucceeds s c ready
  refine ⟨?_, ?_⟩
  · obtain ⟨u, reopen, fresh, -, -, told, released⟩ :=
      (rxOpenStartsAFreshSession t c (isReady_iff.2 ⟨_, answer.told⟩)).2 (by rw [rx])
    refine ⟨t, u, close, reopen, ?_⟩
    rw [fresh]
    refine ⟨rfl, rfl, rfl, rfl, rfl, rfl, fun x hx reads => ?_⟩
    simpa [reads, CallerState.isReader] using released.none_left told rfl x hx
  · obtain ⟨u, reopen, fresh, lines, -, -, told, released⟩ :=
      (txOpenAbortsAndStartsAFreshSession t' c (isReady_iff.2 ⟨_, answer'.told⟩)).2 (by rw [tx'])
    refine ⟨t', u, close', reopen, ?_⟩
    rw [fresh]
    refine ⟨rfl, rfl, rfl, rfl, rfl, rfl, lines, fun x hx w n writes => ?_⟩
    simpa [writes, CallerState.isWriter] using released.none_left told rfl x hx

/-- Settles O43: the write is `transmit`, which admits it on TX.active alone; at rest the writer that waits is among the
outstanding completions, so that its wake first leads to the same state (`serveDone_finish`). -/
theorem onlyOneCallerWaitsInAWrite : Obligations.OnlyOneCallerWaitsInAWrite := by
  unfold Obligations.OnlyOneCallerWaitsInAWrite
  intro s c d x w n i inv hx hw ready opened plain
  obtain ⟨V, k, write⟩ := exec_plainWrite plain
  have waits : WaitsInWrite s d w n := ⟨x, hx, hw⟩
  obtain ⟨-, busy, admitted⟩ := writeOutcome_of_transmit ready (write s ready opened)
  refine ⟨busy rfl, fun rest => ?_⟩
  have done := inv.done_of_rest waits rest
  have other : d ≠ c := by rintro rfl; exact not_waitsInWrite_of_ready ready waits
  have begun := waitWriter_start_writeBegun (isReady_lt ready) V k
  have readyAfterWake : (s.finish d (writeResult n)).isReady c = true := by
    obtain ⟨q, hq⟩ := isReady_iff.1 ready
    exact isReady_iff.2 ⟨q, by simp [List.getElem?_set_ne other, hq]⟩
  refine ⟨waitWriter c k (start V s.serveDone), s.finish d (writeResult n), _, k, ?_,
    begun.serves.served d x w n other hx hw done, begun.waits, fun e y v m hy he => ?_,
    exec_evWakeWrite_done waits done, ?_⟩
  · rw [write s ready opened]
    exact transmit_next.2 (.inr (.inr ⟨rfl, rest, rfl⟩))
  · exact (waitsInWrite_of_write inv rest ⟨y, hy, he⟩).1
  · rw [write _ readyAfterWake opened, ← serveDone_finish waits done]
    exact transmit_next.2 (.inr (.inr ⟨rfl, rest, rfl⟩))

end Sys2Proof.Machine
end

section
/-! Reset and hazards (70_reset_and_hazards R260, R269, R275): what a reset restores, the second of two edges at one
instant, and when the completion of a write loses against its deadline. -/

namespace Sys2Proof.Machine

variable {s t u : State} {c : CallerId} {w n : Nat} {l : Bool} {V : Word}

/-! ## Two edges at one instant (R269) -/

/-- An accepted edge leaves the decoder in a frame whose last edge is now (R122, R125). -/
theorem edge_of_accepted (inv : DecoderInv s) (opened : s.rx.opened = true) (ok : Accepted s.rx s.now) :
    (edge l s).rx.count ≠ -1 ∧ (edge l s).rx.last = s.now := by
  have grown : min (s.rx.count + 1) 127 ≠ -1 := by have := inv.count_ge; omega
  by_cases first : s.rx.count = -1
  · rw [edge_first opened first, firstEdge_rx]
    exact ⟨grown, rfl⟩
  · obtain ⟨-, late, soon⟩ := ok.resolve_left first
    rw [edge_later opened first late soon, laterEdge_eq]
    exact ⟨grown, rfl⟩

/-- In a frame whose last edge is now, an edge comes less than a pulse width after it (R123). -/
theorem edge_at_last_edge (inv : DecoderInv s) (opened : s.rx.opened = true) (inFrame : s.rx.count ≠ -1)
    (last : s.rx.last = s.now) : edge l s = s := by
  have width := (legalTime_iff.1 inv.pw).1
  exact edge_glitch opened inFrame (by omega)

/-! ## The wake of a writer and TIMEOUT (R183, R184, R275) -/

/-- The inversion of EV_WAKE_WRITE: the writer's transmission is done, or its deadline has come first. -/
theorem exec_evWakeWrite_next (h : exec (.evWakeWrite c) s = .next t) : ∃ w n, WaitsInWrite s c w n ∧
    ((s.tx.done = true ∧ t = s.finish c (writeResult n)) ∨
     (s.tx.done = false ∧ w ≤ s.now ∧ t = (abort s).finish c (bareResult .timeout))) := by
  have runs := h
  rw [exec, execEvWakeWrite, ofCaller_next] at runs
  obtain ⟨x, hx, -⟩ := runs
  rcases hw : x.state with _ | _ | ⟨w, n⟩
  case waitingWrite =>
    refine ⟨w, n, ⟨x, hx, hw⟩, ?_⟩
    rw [exec_evWakeWrite hx hw, whenEnabled_next] at h
    obtain ⟨expired, answer⟩ := h
    by_cases done : s.tx.done = true
    · rw [if_pos done] at answer
      cases answer
      exact .inl ⟨done, rfl⟩
    · rw [if_neg done] at answer
      cases answer
      exact .inr ⟨Bool.eq_false_iff.2 done, by simpa [State.writeOver, done] using expired, rfl⟩
  all_goals
    rw [wakeWriteOfOtherCallersIsRefused s c x hx (by simp [hw])] at h
    cases h

/-- A writer is told TIMEOUT only at or after its deadline, with its transmission not done. -/
theorem waits_of_timeout (h : exec (.evWakeWrite c) s = .next t)
    (told : t.callers[c]? = some ⟨.ready, some (bareResult .timeout)⟩) :
    ∃ w n, WaitsInWrite s c w n ∧ s.tx.done = false ∧ w ≤ s.now := by
  obtain ⟨w, n, waits, ⟨-, rfl⟩ | ⟨notDone, late, -⟩⟩ := exec_evWakeWrite_next h
  · obtain ⟨x, hx, -⟩ := waits
    have there : c < s.callers.length := (List.getElem?_eq_some_iff.1 hx).1
    cases told.symm.trans (finish_answers rfl there).told
  · exact ⟨w, n, waits, notDone, late⟩

/-- A deadline that comes no later than the next firing leaves no more margin than the latencies can use up. -/
theorem margin_le_of_late (inTime : InTime s w) (late : w ≤ s.tx.timer.due) :
    s.par.wrMargin ≤ (2 * s.tx.llen.bits + 1) * s.par.tLat := by
  have bound := inTime.2
  omega

/-! ## A write and its firings (R175, R178) -/

/-- A write with NB = 0 that is accepted at rest has started, and its caller waits. -/
theorem exec_txWrite_atRest (rest : s.tx.active = false) (h : exec (.txWrite c false V) s = .next t) :
    s.isReady c = true ∧ t = waitWriter c 4 (start V s.serveDone) := by
  obtain ⟨ready, h⟩ := issue_next.1 h
  obtain ⟨-, h⟩ := requireSession_next.1 h
  obtain ⟨hnb, -⟩ | ⟨-, busy, -⟩ | ⟨-, -, rfl⟩ := transmit_next.1 h
  · cases hnb
  · rw [rest] at busy; cases busy
  · exact ⟨ready, rfl⟩

/-- The pulse timer answers no caller. -/
theorem fires_callers (h : Fires n t u) : u.callers = t.callers := by
  induction h with
  | zero => rfl
  | succ _ here ih =>
    obtain ⟨-, here⟩ := whenEnabled_next.1 here
    cases here
    exact (pulse_frame _).2.trans ih

/-! ## The statements -/

/-- Settles O22: the accepted edge sets RX.last to now, so the second edge is a glitch (`edge_at_last_edge`). -/
theorem secondSimultaneousEdgeIsAGlitch : Obligations.SecondSimultaneousEdgeIsAGlitch := by
  unfold Obligations.SecondSimultaneousEdgeIsAGlitch
  intro s t l m inv opened ok first
  rw [exec_edgeOf] at first
  cases first
  obtain ⟨inFrame, last⟩ := edge_of_accepted (l := l) inv opened ok
  have opened' : (edge l s).rx.opened = true := (edge_sameSetup l s).rxOpened.trans opened
  rw [exec_edgeOf, edge_at_last_edge (decoderInv_edge inv l) opened' inFrame (last.trans (edge_frame l s).1.now.symm)]

/-- Settles O54: the deadline is now or past and the next firing is not overdue, so the writers' bound leaves WR_MARGIN
at most the latencies (`margin_le_of_late`). -/
theorem timeoutNeedsLatenessOfTheMargin : Obligations.TimeoutNeedsLatenessOfTheMargin := by
  unfold Obligations.TimeoutNeedsLatenessOfTheMargin
  intro s t c writers enc onTime wake told
  obtain ⟨w, n, waits, notDone, late⟩ := waits_of_timeout wake told
  have inTime := writers.inTime waits notDone
  have active := inTime.1
  exact ⟨margin_le_of_late inTime (late.trans (onTime.tx (enc.armed.1 active))), active⟩

/-- Settles O55: the last firing completes the transmission, so the wake after it finds TX.done set; the wake before it
finds only its deadline come. -/
theorem orderDecidesAtTheDeadline : Obligations.OrderDecidesAtTheDeadline := by
  unfold Obligations.OrderDecidesAtTheDeadline
  intro s c x n hx hw notDone timer phase last
  refine ⟨?_, ?_⟩
  · have fires : exec .evTxTimer s = .next (completeTx s) := by
      rw [exec_evTxTimer_of_due (by rw [timer]) (by rw [timer]), pulse_complete phase last]
    obtain ⟨u, wake, block, answer⟩ := (wakeWriteReportsDoneOrTimeout (completeTx s) c x s.now n hx hw).1 rfl
    exact ⟨completeTx s, u, fires, wake, ⟨answer.told, answer.others, answer.length⟩, by rw [block.tx]; rfl⟩
  · obtain ⟨u, wake, tx, -, -, -, answer⟩ := (wakeWriteReportsDoneOrTimeout s c x s.now n hx hw).2.1 notDone le_rfl
    exact ⟨u, wake, answer, by rw [tx], by rw [tx]⟩

/-- Settles O56: after 2L firings the write stands before its completion firing (`exists_fires_beforePulse`), due at the
deadline that R175 gave its caller. -/
theorem timeoutCanHappenWithoutMargin : Obligations.TimeoutCanHappenWithoutMargin := by
  unfold Obligations.TimeoutCanHappenWithoutMargin
  intro s t u c V par rest write fires
  have tLat : s.par.tLat = 0 := by rw [par]
  have margin : s.par.wrMargin = 0 := by rw [par]
  obtain ⟨ready, rfl⟩ := exec_txWrite_atRest rest write
  obtain ⟨u', fires', before⟩ := exists_fires_beforePulse (beforePulse_start tLat c V 4) s.tx.len.bits le_rfl
  obtain rfl := fires_unique fires fires'
  have waits := (waitWriter_start_writeBegun (isReady_lt ready) V 4).waits
  rw [← fires_callers fires, margin] at waits
  have notDone : u.tx.done = false := by rw [before.tx]; rfl
  have deadline : s.now + (s.tx.pw.toNat + s.tx.pi.toNat) * s.tx.len.bits + 0 ≤ u.tx.timer.due := by
    rw [before.tx, Nat.mul_comm]; rfl
  obtain ⟨v, wake, tx, lines, -, -, answer⟩ :=
    (wakeWriteReportsDoneOrTimeout { u with now := u.tx.timer.due } c _ _ _ waits rfl).2.1 notDone deadline
  exact ⟨v, wake, answer.told, lines, by rw [tx]⟩

/-- Settles O28: the callers a reset interrupts are those that wait, so that all are Ready after it. -/
theorem resetRestoresTheTable : Obligations.ResetRestoresTheTable := by
  unfold Obligations.ResetRestoresTheTable
  intro s
  have waiting : (fun w : CallerState => decide (w ≠ .ready)) = CallerState.isWaiting := by
    funext w
    exact Bool.eq_iff_iff.2 (decide_eq_true_iff.trans isWaiting_iff.symm)
  refine ⟨_, rfl, rfl, rfl, rfl, rfl, fun x hx => ?_, ⟨rfl, rfl, by simp⟩, waiting ▸ interrupt_releases _ rfl⟩
  obtain ⟨y, -, rfl⟩ := List.mem_map.1 hx
  unfold Caller.interruptIf
  split
  · rfl
  · rename_i ready
    exact not_not.1 (mt isWaiting_iff.2 ready)

end Sys2Proof.Machine
end
